-- ==== Sys2Proof/Word.lean ====
section
/-! DEFINITION. The word types of the CHIP-8 core (00_scope.md R6, R12): all values are unsigned. -/

namespace Sys2Proof

/-- A byte: a general register, a timer, the stack pointer, a memory cell (R6). -/
abbrev Byte := BitVec 8

/-- A 16-bit word: an instruction word, `pc`, `I`, a stack entry (R6). -/
abbrev Word := BitVec 16

/-- A 12-bit address, the field `nnn` (R15, R74). -/
abbrev Addr := BitVec 12

/-- A 4-bit field of an instruction word (R11). -/
abbrev Nibble := BitVec 4

/-- A register index 0..15, naming `V0`..`VF` (R15, R22). -/
abbrev Reg := Fin 16

/-- A logical key 0x0..0xF (R6, R261). -/
abbrev Key := Fin 16

end Sys2Proof
end

