-- ==== Sys2Proof/Decode.lean ====
section
/-! DEFINITION. Decoding and encoding of the 16-bit instruction word, from 30_encoding.md R72 to R90. -/

namespace Sys2Proof

/-! ## Fields of the word (R73) -/

/-- nibble1, `w[15:12]`: the primary opcode family. -/
def fieldOp (w : Word) : Nibble := w.extractLsb' 12 4

/-- nibble2, `w[11:8]`: the register index `x`. -/
def fieldX (w : Word) : Reg := (w.extractLsb' 8 4).toFin

/-- nibble3, `w[7:4]`: the register index `y`. -/
def fieldY (w : Word) : Reg := (w.extractLsb' 4 4).toFin

/-- nibble4, `w[3:0]`: sprite byte count or sub-operation. -/
def fieldN (w : Word) : Nibble := w.extractLsb' 0 4

/-- `kk`, `w[7:0]`: immediate byte or sub-operation. -/
def fieldKK (w : Word) : Byte := w.extractLsb' 0 8

/-- `nnn`, `w[11:0]`: the address. -/
def fieldNNN (w : Word) : Addr := w.extractLsb' 0 12

/-! ## Decoding -/

/-- Why a word decodes to no instruction (00_scope.md R16: "unknown opcode or malformed sub-nibble where the architecture
requires a specific zero pattern"). Both are the one report kind DecodeError (60_exceptions.md R241). -/
inductive DecodeError where
  /-- a family 0, 8, E or F word whose sub-operation is not listed (R78 to R81) -/
  | unknownOpcode
  /-- a family 5 or 9 word whose low nibble is not 0 (R82) -/
  | malformedNibble
  deriving DecidableEq, Repr

/-- Family 0 (R78): CLS and RET; every other word, SYS included, is a decode error. -/
def decode0 (w : Word) : Except DecodeError Instr :=
  if w = 0x00E0 then .ok .cls
  else if w = 0x00EE then .ok .ret
  else .error .unknownOpcode

/-- Family 8 (R79): the low nibble selects the operation; SHR and SHL accept every `y`. -/
def decode8 (w : Word) : Except DecodeError Instr :=
  let n := fieldN w
  if n = 0x0 then .ok (.ldReg (fieldX w) (fieldY w))
  else if n = 0x1 then .ok (.or (fieldX w) (fieldY w))
  else if n = 0x2 then .ok (.and (fieldX w) (fieldY w))
  else if n = 0x3 then .ok (.xor (fieldX w) (fieldY w))
  else if n = 0x4 then .ok (.addReg (fieldX w) (fieldY w))
  else if n = 0x5 then .ok (.sub (fieldX w) (fieldY w))
  else if n = 0x6 then .ok (.shr (fieldX w) (fieldY w))
  else if n = 0x7 then .ok (.subn (fieldX w) (fieldY w))
  else if n = 0xE then .ok (.shl (fieldX w) (fieldY w))
  else .error .unknownOpcode

/-- Family E (R80): SKP and SKNP. -/
def decodeE (w : Word) : Except DecodeError Instr :=
  let kk := fieldKK w
  if kk = 0x9E then .ok (.skp (fieldX w))
  else if kk = 0xA1 then .ok (.sknp (fieldX w))
  else .error .unknownOpcode

/-- Family F (R81): the low byte selects one of nine operations. -/
def decodeF (w : Word) : Except DecodeError Instr :=
  let kk := fieldKK w
  if kk = 0x07 then .ok (.ldVxDT (fieldX w))
  else if kk = 0x0A then .ok (.ldVxK (fieldX w))
  else if kk = 0x15 then .ok (.ldDTVx (fieldX w))
  else if kk = 0x18 then .ok (.ldSTVx (fieldX w))
  else if kk = 0x1E then .ok (.addI (fieldX w))
  else if kk = 0x29 then .ok (.ldF (fieldX w))
  else if kk = 0x33 then .ok (.ldB (fieldX w))
  else if kk = 0x55 then .ok (.ldMemV (fieldX w))
  else if kk = 0x65 then .ok (.ldVMem (fieldX w))
  else .error .unknownOpcode

/-- Families 5 and 9 (R82): valid only with low nibble 0. -/
def decodeZeroNibble (w : Word) (i : Instr) : Except DecodeError Instr :=
  if fieldN w = 0x0 then .ok i else .error .malformedNibble

/-- The decoder (R75, R77, R89): total on all 65536 words, a function of the word alone (R85). -/
def decode (w : Word) : Except DecodeError Instr :=
  let op := fieldOp w
  if op = 0x0 then decode0 w
  else if op = 0x1 then .ok (.jp (fieldNNN w))
  else if op = 0x2 then .ok (.call (fieldNNN w))
  else if op = 0x3 then .ok (.seByte (fieldX w) (fieldKK w))
  else if op = 0x4 then .ok (.sneByte (fieldX w) (fieldKK w))
  else if op = 0x5 then decodeZeroNibble w (.seReg (fieldX w) (fieldY w))
  else if op = 0x6 then .ok (.ldByte (fieldX w) (fieldKK w))
  else if op = 0x7 then .ok (.addByte (fieldX w) (fieldKK w))
  else if op = 0x8 then decode8 w
  else if op = 0x9 then decodeZeroNibble w (.sneReg (fieldX w) (fieldY w))
  else if op = 0xA then .ok (.ldI (fieldNNN w))
  else if op = 0xB then .ok (.jpV0 (fieldNNN w))
  else if op = 0xC then .ok (.rnd (fieldX w) (fieldKK w))
  else if op = 0xD then .ok (.drw (fieldX w) (fieldY w) (fieldN w))
  else if op = 0xE then decodeE w
  else decodeF w

/-- The word of two bytes, the one at the lower address high (big-endian, 20_memory.md R51, R56). -/
def joinBytes (hi lo : Byte) : Word := hi ++ lo

/-- The two bytes of a word in the order they lie in memory (R56). -/
def splitWord (w : Word) : List Byte := [w.extractLsb' 8 8, w.extractLsb' 0 8]

/-- Decoding of an instruction's two bytes (R72). -/
def decodeBytes (hi lo : Byte) : Except DecodeError Instr := decode (joinBytes hi lo)

/-! ## Encoding (R73, R90) -/

/-- Format NNN. -/
def packNNN (op : Nibble) (nnn : Addr) : Word := op ++ nnn

/-- Formats XKK and X. -/
def packXKK (op : Nibble) (x : Reg) (kk : Byte) : Word := op ++ (BitVec.ofFin x : Nibble) ++ kk

/-- Formats XY and XYN. -/
def packXYN (op : Nibble) (x y : Reg) (n : Nibble) : Word := op ++ (BitVec.ofFin x : Nibble) ++ (BitVec.ofFin y : Nibble) ++ n

/-- The word of an instruction, from the patterns of R90. -/
def encode : Instr → Word
  | .cls         => 0x00E0
  | .ret         => 0x00EE
  | .jp nnn      => packNNN 0x1 nnn
  | .call nnn    => packNNN 0x2 nnn
  | .seByte x k  => packXKK 0x3 x k
  | .sneByte x k => packXKK 0x4 x k
  | .seReg x y   => packXYN 0x5 x y 0x0
  | .ldByte x k  => packXKK 0x6 x k
  | .addByte x k => packXKK 0x7 x k
  | .ldReg x y   => packXYN 0x8 x y 0x0
  | .or x y      => packXYN 0x8 x y 0x1
  | .and x y     => packXYN 0x8 x y 0x2
  | .xor x y     => packXYN 0x8 x y 0x3
  | .addReg x y  => packXYN 0x8 x y 0x4
  | .sub x y     => packXYN 0x8 x y 0x5
  | .shr x y     => packXYN 0x8 x y 0x6
  | .subn x y    => packXYN 0x8 x y 0x7
  | .shl x y     => packXYN 0x8 x y 0xE
  | .sneReg x y  => packXYN 0x9 x y 0x0
  | .ldI nnn     => packNNN 0xA nnn
  | .jpV0 nnn    => packNNN 0xB nnn
  | .rnd x k     => packXKK 0xC x k
  | .drw x y n   => packXYN 0xD x y n
  | .skp x       => packXKK 0xE x 0x9E
  | .sknp x      => packXKK 0xE x 0xA1
  | .ldVxDT x    => packXKK 0xF x 0x07
  | .ldVxK x     => packXKK 0xF x 0x0A
  | .ldDTVx x    => packXKK 0xF x 0x15
  | .ldSTVx x    => packXKK 0xF x 0x18
  | .addI x      => packXKK 0xF x 0x1E
  | .ldF x       => packXKK 0xF x 0x29
  | .ldB x       => packXKK 0xF x 0x33
  | .ldMemV x    => packXKK 0xF x 0x55
  | .ldVMem x    => packXKK 0xF x 0x65

/-! ## The match and mask table of R90, for the statements that check the decoder against it -/

/-- One row of R90: the word is the instruction iff `w &&& mask = pattern`. -/
def patternTable : List (Word × Word) :=
  [(0x00E0, 0xFFFF), (0x00EE, 0xFFFF), (0x1000, 0xF000), (0x2000, 0xF000), (0x3000, 0xF000), (0x4000, 0xF000),
   (0x5000, 0xF00F), (0x6000, 0xF000), (0x7000, 0xF000), (0x8000, 0xF00F), (0x8001, 0xF00F), (0x8002, 0xF00F)] ++
  [(0x8003, 0xF00F), (0x8004, 0xF00F), (0x8005, 0xF00F), (0x8006, 0xF00F), (0x8007, 0xF00F), (0x800E, 0xF00F),
   (0x9000, 0xF00F), (0xA000, 0xF000), (0xB000, 0xF000), (0xC000, 0xF000), (0xD000, 0xF000)] ++
  [(0xE09E, 0xF0FF), (0xE0A1, 0xF0FF), (0xF007, 0xF0FF), (0xF00A, 0xF0FF), (0xF015, 0xF0FF), (0xF018, 0xF0FF),
   (0xF01E, 0xF0FF), (0xF029, 0xF0FF), (0xF033, 0xF0FF), (0xF055, 0xF0FF), (0xF065, 0xF0FF)]

/-- The row of R90 an instruction belongs to, counted from 0. -/
def rowOf : Instr → Nat
  | .cls => 0 | .ret => 1 | .jp _ => 2 | .call _ => 3 | .seByte _ _ => 4 | .sneByte _ _ => 5 | .seReg _ _ => 6
  | .ldByte _ _ => 7 | .addByte _ _ => 8 | .ldReg _ _ => 9 | .or _ _ => 10 | .and _ _ => 11 | .xor _ _ => 12
  | .addReg _ _ => 13 | .sub _ _ => 14 | .shr _ _ => 15 | .subn _ _ => 16 | .shl _ _ => 17 | .sneReg _ _ => 18
  | .ldI _ => 19 | .jpV0 _ => 20 | .rnd _ _ => 21 | .drw _ _ _ => 22 | .skp _ => 23 | .sknp _ => 24 | .ldVxDT _ => 25
  | .ldVxK _ => 26 | .ldDTVx _ => 27 | .ldSTVx _ => 28 | .addI _ => 29 | .ldF _ => 30 | .ldB _ => 31 | .ldMemV _ => 32
  | .ldVMem _ => 33

/-- The host's entry: the instruction decoded from an instruction whose bits are `w`, `nbits` of them given and the rest 0,
laid out as two big-endian bytes. -/
def decodeTableWord (nbits w : Nat) : Option Instr :=
  match splitWord (BitVec.ofNat 16 (w % 2 ^ nbits)) with
  | [hi, lo] => (decodeBytes hi lo).toOption
  | _ => none

end Sys2Proof
end

