-- ==== Sys2Proof/Machine/Framebuffer.lean ====
section
/-! DEFINITION. The display collaborator's framebuffer and its draw (60_exceptions.md R255 to R258, 10_state.md R36): a grid
of 32 rows of 64 one-bit pixels. A row is held as a 64-bit vector, column 0 its most significant bit, so that the draw of one
sprite byte is one XOR. Machine/PixelReference.lean holds the pixel-by-pixel text of R257. -/

namespace Sys2Proof.Machine

/-- `fb[0..31][0..63]` (R257): 32 rows; in each, column `c` is bit `63 − c`. -/
abbrev Framebuffer := Vector (BitVec 64) 32

/-- Every pixel unset (R255, R258). -/
def Framebuffer.blank : Framebuffer := Vector.replicate 32 0

/-- The pixel `fb[row][col]`; false beyond the grid. -/
def Framebuffer.pixel (fb : Framebuffer) (row col : Nat) : Bool :=
  if h : row < 32 then fb[row].getMsbD col else false

/-- One sprite byte placed on a row from column `x0` on, its bit 7 leftmost; what runs past column 63 is lost (R257). -/
def spriteRow (x0 : Nat) (b : Byte) : BitVec 64 := (b ++ (0 : BitVec 56)) >>> x0

/-- The sprite bytes drawn on rows `row, row+1, …`: each XORed onto its row, rows past 31 not drawn; the answer says whether
a set pixel became unset (R257). -/
def Framebuffer.drawRows (fb : Framebuffer) (x0 row : Nat) : List Byte → Framebuffer × Bool
  | [] => (fb, false)
  | b :: bs =>
    if h : row < 32 then
      let bits := spriteRow x0 b
      let rest := Framebuffer.drawRows (fb.set row (fb[row] ^^^ bits)) x0 (row + 1) bs
      (rest.1, (fb[row] &&& bits) != 0 || rest.2)
    else Framebuffer.drawRows fb x0 (row + 1) bs

/-- `DisplayDraw(x, y, bytes)` (R256, R257): the origin is reduced modulo 64 and 32. -/
def Framebuffer.draw (fb : Framebuffer) (x y : Nat) (bytes : List Byte) : Framebuffer × Bool :=
  fb.drawRows (x % 64) (y % 32) bytes

end Sys2Proof.Machine
end

