-- ==== Sys2Proof/Config.lean ====
section
/-! DEFINITION. What is fixed for a run but open in the spec (00_scope.md R10): the free random bytes, and the record of
launch parameters. The parameters with a value (STEPS_PER_FRAME, the glyph table) stand in Machine/Params.lean. -/

namespace Sys2Proof

/-- The random source (43_random_display.md R170, 10_state.md R35): the byte of the `n`-th draw. A FREE VALUE: it has no
body, so nothing can be proved of any draw (D19; assumption log 4). -/
opaque Config.randByte : Nat → Byte

/-- One call `set_held(key, down)` of the host's input collaborator (60_exceptions.md R262). -/
structure KeyEvent where
  key  : Key
  down : Bool
  deriving DecidableEq, Repr

/-- The launch parameters of R10: everything a run starts from that the spec leaves open. -/
structure Launch where
  /-- FONT_BASE, the address of the glyphs (R8, D17; log 2). -/
  fontBase  : Addr
  /-- INIT_MEM, the memory before the glyphs and the image are written (70_reset_and_hazards.md R281, D21; log 1). -/
  initMem   : List Host.Cell
  /-- The program image the host loads at 0x200 (R283). -/
  image     : List Byte
  /-- The host's keyboard calls: entry `i` holds those made between step `i + 1` and the step after it (R262; log 3). -/
  keyEvents : List (List KeyEvent)
  deriving DecidableEq, Repr

end Sys2Proof
end

