-- ==== Sys2Proof/Machine/Params.lean ====
section
/-! DEFINITION. The machine's parameters with a value (00_scope.md R6, R7, R10) and the glyph table (45_index_memory.md R216). -/

namespace Sys2Proof.Machine

/-- STEPS_PER_FRAME, 10 for this hardware (00_scope.md R7, D18). -/
def stepsPerFrame : Nat := 10

/-- The program load base and entry point (R6, 20_memory.md R60). -/
def programBase : Nat := 0x200

/-- The largest program image, 4096 − 512 bytes (R6, 70_reset_and_hazards.md R283). -/
def maxImage : Nat := 3584

/-- The bytes of one digit glyph, and the number of glyph bytes in all (R6). -/
def glyphSize : Nat := 5

/-- The 16 digit glyphs, five rows each from top to bottom (R216). -/
def glyphs : List (List Byte) :=
  [[0xF0, 0x90, 0x90, 0x90, 0xF0], [0x20, 0x60, 0x20, 0x20, 0x70],
   [0xF0, 0x10, 0xF0, 0x80, 0xF0], [0xF0, 0x10, 0xF0, 0x10, 0xF0],
   [0x90, 0x90, 0xF0, 0x10, 0x10], [0xF0, 0x80, 0xF0, 0x10, 0xF0],
   [0xF0, 0x80, 0xF0, 0x90, 0xF0], [0xF0, 0x10, 0x20, 0x40, 0x40]] ++
  [[0xF0, 0x90, 0xF0, 0x90, 0xF0], [0xF0, 0x90, 0xF0, 0x10, 0xF0],
   [0xF0, 0x90, 0xF0, 0x90, 0x90], [0xE0, 0x90, 0xE0, 0x90, 0xE0],
   [0xF0, 0x80, 0x80, 0x80, 0xF0], [0xE0, 0x90, 0x90, 0x90, 0xE0],
   [0xF0, 0x80, 0xF0, 0x80, 0xF0], [0xF0, 0x80, 0xF0, 0x80, 0x80]]

/-- The 80 glyph bytes in the order they are installed (R280). -/
def glyphBytes : List Byte := glyphs.flatten

/-- The launch `State.reset` starts from. The spec leaves all four parameters open (R10): DESIGN CHOICE, assumption logs 1
(INIT_MEM: nothing listed), 2 (FONT_BASE 0x000) and 3 (no key event); no image is loaded (log 6). -/
def defaultLaunch : Launch := { fontBase := 0x000, initMem := [], image := [], keyEvents := [] }

end Sys2Proof.Machine
end

