-- ==== Sys2Proof/Machine/Memory.lean ====
section
/-! DEFINITION. The memory: 4096 bytes (10_state.md R21, 20_memory.md R50 to R54), held as a list of (address, byte) pairs
in one canonical form, with every access reduced modulo 4096. -/

namespace Sys2Proof.Machine

/-- Memory contents: addresses strictly rising, no entry equal to `Memory.unlisted`. -/
abbrev Memory := List Host.Cell

/-- What an address with no entry reads as. The spec leaves memory at reset open (70_reset_and_hazards.md R281): DESIGN
CHOICE, assumption log 1; any contents can be listed, so a statement about every state holds for every INIT_MEM. -/
def Memory.unlisted : Byte := 0x00

/-- The canonical form: strictly rising addresses below 4096 and no entry with the unlisted byte. -/
abbrev Memory.wf (m : Memory) : Prop :=
  m.Pairwise (fun c d => c.1 < d.1) ∧ ∀ c ∈ m, c.1 < 4096 ∧ c.2 ≠ Memory.unlisted

/-- The byte at an address already reduced. -/
def Memory.byteAt : Memory → Nat → Byte
  | [], _ => Memory.unlisted
  | (k, b) :: m, a => if a = k then b else Memory.byteAt m a

/-- `m` with byte `v` at an address already reduced, the canonical form kept. -/
def Memory.store : Memory → Nat → Byte → Memory
  | [], a, v => if v = Memory.unlisted then [] else [(a, v)]
  | (k, b) :: m, a, v =>
    if a < k then (if v = Memory.unlisted then (k, b) :: m else (a, v) :: (k, b) :: m)
    else if a = k then (if v = Memory.unlisted then m else (k, v) :: m)
    else (k, b) :: Memory.store m a v

/-- A byte address is reduced modulo 4096 at the memory (00_scope.md R9, D3). -/
def wrapAddr (a : Nat) : Nat := a % 4096

/-- `MemRead(a, 1)` (20_memory.md R52). -/
def Memory.read (m : Memory) (a : Nat) : Byte := m.byteAt (wrapAddr a)

/-- `MemWrite(a, 1, v)` (20_memory.md R53). -/
def Memory.write (m : Memory) (a : Nat) (v : Byte) : Memory := m.store (wrapAddr a) v

/-- The bytes at `a, a+1, …, a+n−1`, each address reduced (R54, R57). -/
def Memory.readBytes (m : Memory) (a : Nat) : Nat → List Byte
  | 0 => []
  | n + 1 => m.read a :: Memory.readBytes m (a + 1) n

/-- Write bytes at `a, a+1, …` in that order, each address reduced (R54, R57). -/
def Memory.writeBytes (m : Memory) (a : Nat) : List Byte → Memory
  | [] => m
  | v :: vs => Memory.writeBytes (m.write a v) (a + 1) vs

/-- A list of cells put into memory one after the other, so that any list gives a canonical memory (INIT_MEM, R281). -/
def Memory.ofCells (cells : List Host.Cell) : Memory :=
  cells.foldl (fun m c => m.write c.1 c.2) []

/-- The glyph install of reset (70_reset_and_hazards.md R280 (2)). -/
def Memory.installGlyphs (m : Memory) (fontBase : Addr) : Memory := m.writeBytes fontBase.toNat glyphBytes

/-- The host's program load (R283): verbatim from 0x200, at most 3584 bytes. -/
def Memory.loadImage (m : Memory) (image : List Byte) : Memory := m.writeBytes programBase (image.take maxImage)

/-- Whether the load truncates the image, the condition of the host's warning (R283, 60_exceptions.md R242). -/
def imageTruncated (image : List Byte) : Bool := maxImage < image.length

end Sys2Proof.Machine
end

