-- ==== Sys2Proof/Machine/State.lean ====
section
/-! DEFINITION. The state of the block (10_state.md R20) and of its display, its value at launch and at reset, and the
reasons a step could stop. -/

namespace Sys2Proof.Machine

/-- The key wait status (10_state.md R32). -/
inductive KeyWait where
  | idle
  | waitingForKey
  | keyCaptured (k : Key)
  deriving DecidableEq, Repr

/-- The kinds of error report (60_exceptions.md R241). -/
inductive ReportKind where
  | decodeError
  | stackOverflow
  | stackUnderflow
  deriving DecidableEq, Repr

/-- An error report: its kind, the instruction word and the address it was fetched from (R240, R241). -/
structure Report where
  kind    : ReportKind
  opcode  : Word
  address : Word
  deriving DecidableEq, Repr

/-- The state. The first twelve fields are the record `S` of 10_state.md R20; `fb` is the display's (R36); the last three
are the model's own. -/
structure State where
  /-- the 4096-byte memory (R21) -/
  mem    : Memory
  /-- the general registers V0..VF (R22); V[15] is the flag register (R23) -/
  V      : Vector Byte 16
  /-- the index register, all 16 bits stored (R26) -/
  I      : Word
  /-- the program counter (R25) -/
  pc     : Word
  /-- the stack pointer, 0..16 in every reachable state (R29) -/
  SP     : Byte
  /-- the call stack (R30) -/
  stack  : Vector Word 16
  /-- the delay timer (R27) -/
  DT     : Byte
  /-- the sound timer (R28) -/
  ST     : Byte
  /-- the held flags of the 16 keys (R31) -/
  held   : Vector Bool 16
  /-- the key wait status (R32) -/
  wait   : KeyWait
  /-- the error reports made, oldest first (R33) -/
  errlog : List Report
  /-- steps already executed in the current frame (R34) -/
  fstep  : Nat
  /-- the display's framebuffer (R36, 60_exceptions.md R257) -/
  fb     : Framebuffer
  /-- FONT_BASE, a launch parameter no step changes (00_scope.md R8; assumption log 2) -/
  fontBase  : Addr
  /-- the host's set_held calls to come, one entry per step boundary (60_exceptions.md R262; assumption log 3) -/
  keyEvents : List (List KeyEvent)
  /-- how many random bytes have been drawn (43_random_display.md R170; assumption log 4) -/
  draws     : Nat
  deriving DecidableEq, Repr

/-- No step of this machine stops: it has no trap, no halt and no fatal error (60_exceptions.md R240 to R247, R268). So there
is no fault, and nothing raises one; this is safe. -/
inductive Fault where
  deriving DecidableEq, Repr

/-- Reasons an instruction is given no meaning. -/
inductive Refusal where
  /-- Raised by an arm of `exec` for an instruction not modelled; no arm is left in that form. Safe. -/
  | notModelled (mnemonic : String)
  deriving DecidableEq, Repr

/-- What an instruction's meaning answers. -/
abbrev Result := Host.Outcome State Fault Refusal

/-- The machine right after initialization and program load, for given launch parameters (70_reset_and_hazards.md R280,
R281, R283; 10_state.md R38). -/
def State.launch (p : Launch) : State where
  mem    := ((Memory.ofCells p.initMem).installGlyphs p.fontBase).loadImage p.image
  V      := Vector.replicate 16 0
  I      := 0x0000
  pc     := 0x0200
  SP     := 0
  stack  := Vector.replicate 16 0
  DT     := 0
  ST     := 0
  held   := Vector.replicate 16 false
  wait   := .idle
  errlog := []
  fstep  := 0
  fb     := Framebuffer.blank
  fontBase  := p.fontBase
  keyEvents := p.keyEvents
  draws     := 0

/-- The machine right after reset, no program loaded (assumption logs 1 to 4 and 6 name what the spec leaves open). -/
def State.reset : State := State.launch defaultLaunch

end Sys2Proof.Machine
end

