-- ==== Sys2Proof/Machine/Operands.lean ====
section
/-! DEFINITION. The operand forms of the instructions (00_scope.md R13, R15; 30_encoding.md R74). -/

namespace Sys2Proof.Machine

/-- `V[x]` read (R13, 10_state.md R22). -/
def State.reg (s : State) (x : Reg) : Byte := s.V[x]

/-- `V[x] <- v`: the one operation that writes a general register. -/
def State.setReg (s : State) (x : Reg) (v : Byte) : State := { s with V := s.V.set x v }

/-- VF, the flag register (10_state.md R23). -/
abbrev regF : Reg := 15

/-- `zext_16(nnn)` (R74, R12). -/
def addrWord (nnn : Addr) : Word := nnn.setWidth 16

/-- `zext_16(v)` of a byte (R12). -/
def byteWord (v : Byte) : Word := v.setWidth 16

/-- The low nibble of a register as a key number or a digit, `v & 0x0F` (41_skip.md R134, 45_index_memory.md R212; D14,
D15). -/
def lowNibble (v : Byte) : Key := (v.setWidth 4).toFin

/-- The address of a digit's glyph, `zext_16(FONT_BASE + 5 * digit)` (R212, R216). -/
def glyphAddress (fontBase : Addr) (digit : Key) : Word := BitVec.ofNat 16 (fontBase.toNat + glyphSize * digit.val)

/-- The three decimal digits of a byte, hundreds first (45_index_memory.md R213). -/
def bcdDigits (v : Byte) : List Byte :=
  [BitVec.ofNat 8 (v.toNat / 100), BitVec.ofNat 8 (v.toNat / 10 % 10), BitVec.ofNat 8 (v.toNat % 10)]

/-- The registers `V0..Vx` inclusive, in order (R214). -/
def State.regsUpTo (s : State) (x : Reg) : List Byte := s.V.toList.take (x.val + 1)

/-- `V[i] <- bs[i]` for each byte of the list, from register `i` on in order (R215). -/
def setRegsFrom (V : Vector Byte 16) (i : Nat) : List Byte → Vector Byte 16
  | [] => V
  | b :: bs => setRegsFrom (if h : i < 16 then V.set i b else V) (i + 1) bs

/-- The request DRW sends to the display: origin and sprite bytes (43_random_display.md R173). -/
structure DrawRequest where
  x     : Byte
  y     : Byte
  bytes : List Byte
  deriving DecidableEq, Repr

/-- The request of `DRW Vx, Vy, n`: coordinates wrapped to the grid, `n` bytes from `I` on (R172). -/
def State.drawRequest (s : State) (x y : Reg) (n : Nibble) : DrawRequest where
  x     := BitVec.ofNat 8 ((s.reg x).toNat % 64)
  y     := BitVec.ofNat 8 ((s.reg y).toNat % 32)
  bytes := s.mem.readBytes s.I.toNat n.toNat

end Sys2Proof.Machine
end

