-- ==== Sys2Proof/Machine/Flags.lean ====
section
/-! DEFINITION. The flag computations, all written to VF (10_state.md R23; 40_alu.md R102, R109 to R113). -/

namespace Sys2Proof.Machine

/-- `bool_to_u8` (00_scope.md R12). -/
def boolToByte (t : Bool) : Byte := if t then 1 else 0

/-- Carry out of bit 7 of `a + b`, from the sum before truncation (R109). -/
def carryFlag (a b : Byte) : Bool := 255 < a.toNat + b.toNat

/-- No borrow in `a − b` (R110, R112). -/
def noBorrowFlag (a b : Byte) : Bool := b.toNat ≤ a.toNat

/-- The bit a right shift by one shifts out (R111). -/
def shiftedOutRight (a : Byte) : Bool := a.getLsbD 0

/-- The bit a left shift by one shifts out (R113). -/
def shiftedOutLeft (a : Byte) : Bool := a.getLsbD 7

/-- `VF <- bool_to_u8(t)`. -/
def State.setFlag (s : State) (t : Bool) : State := s.setReg regF (boolToByte t)

/-- The write order of the flag-writing instructions: the result to `V[x]` first, the flag to VF second (R102, D7). -/
def State.setResultThenFlag (s : State) (x : Reg) (result : Byte) (flag : Bool) : State :=
  (s.setReg x result).setFlag flag

end Sys2Proof.Machine
end

