-- ==== Sys2Proof/Machine/Ops.lean ====
section
/-! DEFINITION. The shared operations of the machine (00_scope.md R13): fetch and advance, the error report that stands where
other machines take an exception, the stack, skips, the random source, the display and keyboard bridges. This machine has no
exception entry and no return from one (60_exceptions.md R244, R245): `report` is all that an error does. -/

namespace Sys2Proof.Machine

/-! ## Fetch and advance (30_encoding.md R70) -/

/-- The instruction word at `pc` and `pc + 1`, big-endian, each address reduced modulo 4096 (20_memory.md R51). -/
def State.fetchWord (s : State) : Word := joinBytes (s.mem.read s.pc.toNat) (s.mem.read (s.pc.toNat + 1))

/-- `pc <- (pc + 2) mod 65536`, before dispatch (R70, D6). -/
def State.advance (s : State) : State := { s with pc := s.pc + 2 }

/-- The address of the instruction being executed, while `pc` is already advanced (R70, 42_control.md). -/
def State.instrAddress (s : State) : Word := s.pc - 2

/-- A word stored where the next fetch reads. -/
def State.storeAtPc (s : State) (w : Word) : State := { s with mem := s.mem.writeBytes s.pc.toNat (splitWord w) }

/-! ## Error reports (60_exceptions.md R240, R241) -/

/-- `Report(kind, {opcode, address})`: appended to `errlog`, nothing else changes (R240). -/
def State.report (s : State) (kind : ReportKind) (opcode address : Word) : State :=
  { s with errlog := s.errlog ++ [{ kind := kind, opcode := opcode, address := address }] }

/-- The numeric code of a report kind (R241). -/
def ReportKind.code : ReportKind → Nat
  | .decodeError => 1
  | .stackOverflow => 2
  | .stackUnderflow => 3

/-! ## The stack (42_control.md R150, R151) -/

/-- The stack entry a pointer value selects. Every pointer value the rules select an entry with is 0..15 while `SP` is in
0..16 (10_state.md R29); for the values of `SP` no run reaches, the low four bits (assumption log 7). -/
def stackIndex (sp : Byte) : Fin 16 := (sp.setWidth 4).toFin

/-- `Push(v)` (R150): on a full stack a report and nothing else. -/
def State.push (s : State) (v opcode address : Word) : State :=
  if s.SP = 16 then s.report .stackOverflow opcode address
  else { s with stack := s.stack.set (stackIndex s.SP) v, SP := s.SP + 1 }

/-- `Pop()` (R151): the value and the state after; on an empty stack a report and the value 0. -/
def State.pop (s : State) (opcode address : Word) : Word × State :=
  if s.SP = 0 then (0x0000, s.report .stackUnderflow opcode address)
  else (s.stack[stackIndex (s.SP - 1)], { s with SP := s.SP - 1 })

/-! ## Control -/

/-- `pc <- target`. -/
def State.jump (s : State) (target : Word) : State := { s with pc := target }

/-- The skip (41_skip.md R136): a further 2 when the condition holds. -/
def State.skipIf (s : State) (cond : Bool) : State := { s with pc := if cond then s.pc + 2 else s.pc }

/-- The key wait's rewind to its own address (44_keyboard_timers.md R190, D10). -/
def State.rewind (s : State) : State := { s with pc := s.pc - 2 }

/-! ## The random source (43_random_display.md R170) -/

/-- `RandByte()`: the draw, a free value (assumption log 4). -/
def State.randByte (s : State) : Byte := Config.randByte s.draws

/-- The draw is consumed. -/
def State.afterDraw (s : State) : State := { s with draws := s.draws + 1 }

/-! ## The display bridge (60_exceptions.md R255 to R257) -/

/-- `DisplayClear()` (R255). -/
def State.displayClear (s : State) : State := { s with fb := Framebuffer.blank }

/-- `DisplayDraw(x, y, bytes)`: the collision answer and the state after (R256, R257). -/
def State.displayDraw (s : State) (r : DrawRequest) : Bool × State :=
  let d := s.fb.draw r.x.toNat r.y.toNat r.bytes
  (d.2, { s with fb := d.1 })

/-! ## The keyboard bridge (60_exceptions.md R260, R263) -/

/-- `KeyHeld(k)` (R260). -/
def State.keyHeld (s : State) (k : Key) : Bool := s.held[k]

/-- The wait status after `set_held(k, down)` (R263, D11): only a release edge while waiting captures. -/
def waitAfter (wait : KeyWait) (k : Key) (old down : Bool) : KeyWait :=
  if old = true ∧ down = false ∧ wait = .waitingForKey then .keyCaptured k else wait

/-- The held flags and the wait status after one `set_held` of the host (R263). -/
def keyboardAfter (kb : Vector Bool 16 × KeyWait) (e : KeyEvent) : Vector Bool 16 × KeyWait :=
  (kb.1.set e.key e.down, waitAfter kb.2 e.key kb.1[e.key] e.down)

/-- Processing of `set_held(k, down)` (R263): it touches the keyboard state only. -/
def State.setHeld (s : State) (k : Key) (down : Bool) : State :=
  let kb := keyboardAfter (s.held, s.wait) { key := k, down := down }
  { s with held := kb.1, wait := kb.2 }

/-! ## The sound output -/

/-- `sound_active = (ST != 0)` (10_state.md R28, 60_exceptions.md R251). -/
def State.soundActive (s : State) : Bool := s.ST != 0

end Sys2Proof.Machine
end

