-- ==== Sys2Proof/Machine/Alu.lean ====
section
/-! DEFINITION. Register loads and the ALU, families 6, 7 and 8 (40_alu.md). Operands are captured before any write (R101),
results wrap modulo 256 (R100). -/

namespace Sys2Proof.Machine

/-- LD Vx, byte (R103). -/
def execLdByte (x : Reg) (kk : Byte) (s : State) : Result := .next (s.setReg x kk)

/-- ADD Vx, byte (R104): no flag. -/
def execAddByte (x : Reg) (kk : Byte) (s : State) : Result :=
  let a := s.reg x
  .next (s.setReg x (a + kk))

/-- LD Vx, Vy (R105). -/
def execLdReg (x y : Reg) (s : State) : Result :=
  let b := s.reg y
  .next (s.setReg x b)

/-- OR Vx, Vy (R106): VF is not written (D8). -/
def execOr (x y : Reg) (s : State) : Result :=
  let a := s.reg x
  let b := s.reg y
  .next (s.setReg x (a ||| b))

/-- AND Vx, Vy (R107): VF is not written (D8). -/
def execAnd (x y : Reg) (s : State) : Result :=
  let a := s.reg x
  let b := s.reg y
  .next (s.setReg x (a &&& b))

/-- XOR Vx, Vy (R108): VF is not written (D8). -/
def execXor (x y : Reg) (s : State) : Result :=
  let a := s.reg x
  let b := s.reg y
  .next (s.setReg x (a ^^^ b))

/-- ADD Vx, Vy (R109): VF is the carry out of bit 7. -/
def execAddReg (x y : Reg) (s : State) : Result :=
  let a := s.reg x
  let b := s.reg y
  .next (s.setResultThenFlag x (a + b) (carryFlag a b))

/-- SUB Vx, Vy (R110): VF is 1 iff no borrow occurred. -/
def execSub (x y : Reg) (s : State) : Result :=
  let a := s.reg x
  let b := s.reg y
  .next (s.setResultThenFlag x (a - b) (noBorrowFlag a b))

/-- SHR Vx (R111): VF is the old bit 0; `V[y]` is never read. -/
def execShr (x _y : Reg) (s : State) : Result :=
  let a := s.reg x
  .next (s.setResultThenFlag x (a >>> 1) (shiftedOutRight a))

/-- SUBN Vx, Vy (R112): the reverse subtraction, VF is 1 iff no borrow occurred. -/
def execSubn (x y : Reg) (s : State) : Result :=
  let a := s.reg x
  let b := s.reg y
  .next (s.setResultThenFlag x (b - a) (noBorrowFlag b a))

/-- SHL Vx (R113): VF is the old bit 7; `V[y]` is never read. -/
def execShl (x _y : Reg) (s : State) : Result :=
  let a := s.reg x
  .next (s.setResultThenFlag x (a <<< 1) (shiftedOutLeft a))

end Sys2Proof.Machine
end

