-- ==== Sys2Proof/Machine/Control.lean ====
section
/-! DEFINITION. Jumps, calls and returns (42_control.md). -/

namespace Sys2Proof.Machine

/-- JP addr (R152). -/
def execJp (nnn : Addr) (s : State) : Result := .next (s.jump (addrWord nnn))

/-- CALL addr (R153): the advanced `pc` is pushed, then the jump is taken, also after a rejected push (D12). -/
def execCall (nnn : Addr) (s : State) : Result :=
  let ret := s.pc
  .next ((s.push ret (encode (.call nnn)) s.instrAddress).jump (addrWord nnn))

/-- RET (R154): `pc <- Pop()`, 0x0000 when the stack is empty (D12). -/
def execRet (s : State) : Result :=
  let popped := s.pop (encode .ret) s.instrAddress
  .next (popped.2.jump popped.1)

/-- JP V0, addr (R155): no masking beyond 16 bits. -/
def execJpV0 (nnn : Addr) (s : State) : Result := .next (s.jump (byteWord (s.reg 0) + addrWord nnn))

end Sys2Proof.Machine
end

