-- ==== Sys2Proof/Machine/IndexMemory.lean ====
section
/-! DEFINITION. The index register and memory transfers (45_index_memory.md). -/

namespace Sys2Proof.Machine

/-- LD I, addr (R210). -/
def execLdI (nnn : Addr) (s : State) : Result := .next { s with I := addrWord nnn }

/-- ADD I, Vx (R211): modulo 65536, no flag (D16). -/
def execAddI (x : Reg) (s : State) : Result := .next { s with I := s.I + byteWord (s.reg x) }

/-- LD F, Vx (R212): the glyph of the digit in the low nibble (D15). -/
def execLdF (x : Reg) (s : State) : Result := .next { s with I := glyphAddress s.fontBase (lowNibble (s.reg x)) }

/-- LD B, Vx (R213). -/
def execLdB (x : Reg) (s : State) : Result :=
  .next { s with mem := s.mem.writeBytes s.I.toNat (bcdDigits (s.reg x)) }

/-- LD [I], Vx (R214): V0..Vx inclusive, `I` unchanged (D9). -/
def execLdMemV (x : Reg) (s : State) : Result :=
  .next { s with mem := s.mem.writeBytes s.I.toNat (s.regsUpTo x) }

/-- LD Vx, [I] (R215): V0..Vx inclusive, `I` unchanged (D9). -/
def execLdVMem (x : Reg) (s : State) : Result :=
  .next { s with V := setRegsFrom s.V 0 (s.mem.readBytes s.I.toNat (x.val + 1)) }

end Sys2Proof.Machine
end

