-- ==== Sys2Proof/Machine/KeyTimer.lean ====
section
/-! DEFINITION. The key wait and timer access (44_keyboard_timers.md). -/

namespace Sys2Proof.Machine

/-- LD Vx, K (R190): a captured key is consumed; otherwise the wait begins or goes on and `pc` is rewound to this
instruction (D10). -/
def execLdVxK (x : Reg) (s : State) : Result :=
  match s.wait with
  | .keyCaptured k => .next { s.setReg x (BitVec.ofNat 8 k.val) with wait := .idle }
  | .idle => .next { s.rewind with wait := .waitingForKey }
  | .waitingForKey => .next s.rewind

/-- LD Vx, DT (R193). -/
def execLdVxDT (x : Reg) (s : State) : Result := .next (s.setReg x s.DT)

/-- LD DT, Vx (R194). -/
def execLdDTVx (x : Reg) (s : State) : Result := .next { s with DT := s.reg x }

/-- LD ST, Vx (R195). -/
def execLdSTVx (x : Reg) (s : State) : Result := .next { s with ST := s.reg x }

end Sys2Proof.Machine
end

