-- ==== Sys2Proof/Machine/RandomDisplay.lean ====
section
/-! DEFINITION. Random bytes and display requests (43_random_display.md). -/

namespace Sys2Proof.Machine

/-- RND Vx, byte (R171): a fresh draw under the mask; the draw is consumed whatever the mask. -/
def execRnd (x : Reg) (kk : Byte) (s : State) : Result :=
  let r := s.randByte
  .next (s.afterDraw.setReg x (r &&& kk))

/-- DRW Vx, Vy, nibble (R172): coordinates and bytes are read first, then the request is made, then VF receives the answer. -/
def execDrw (x y : Reg) (n : Nibble) (s : State) : Result :=
  let answer := s.displayDraw (s.drawRequest x y n)
  .next (answer.2.setFlag answer.1)

/-- CLS (R174). -/
def execCls (s : State) : Result := .next s.displayClear

end Sys2Proof.Machine
end

