-- ==== Sys2Proof/Machine/Skip.lean ====
section
/-! DEFINITION. Conditional skips, families 3, 4, 5, 9 and E (41_skip.md); the mechanism is `State.skipIf` (R136). -/

namespace Sys2Proof.Machine

/-- SE Vx, byte (R130). -/
def execSeByte (x : Reg) (kk : Byte) (s : State) : Result := .next (s.skipIf (s.reg x == kk))

/-- SNE Vx, byte (R131). -/
def execSneByte (x : Reg) (kk : Byte) (s : State) : Result := .next (s.skipIf (s.reg x != kk))

/-- SE Vx, Vy (R132). -/
def execSeReg (x y : Reg) (s : State) : Result := .next (s.skipIf (s.reg x == s.reg y))

/-- SNE Vx, Vy (R133). -/
def execSneReg (x y : Reg) (s : State) : Result := .next (s.skipIf (s.reg x != s.reg y))

/-- SKP Vx (R134): the key is the low nibble of `Vx` (D14). -/
def execSkp (x : Reg) (s : State) : Result := .next (s.skipIf (s.keyHeld (lowNibble (s.reg x))))

/-- SKNP Vx (R135). -/
def execSknp (x : Reg) (s : State) : Result := .next (s.skipIf (!s.keyHeld (lowNibble (s.reg x))))

end Sys2Proof.Machine
end

