-- ==== Sys2Proof/Machine/Frame.lean ====
section
/-! DEFINITION. What happens between two steps: the host's keyboard events and the frame driver (60_exceptions.md R249, R250,
R262, R263). -/

namespace Sys2Proof.Machine

/-- The host's events at this step boundary, processed in their order and taken off the schedule (R262, R263; assumption log
3). -/
def State.hostEvents (s : State) : State :=
  let kb := (s.keyEvents.headD []).foldl keyboardAfter (s.held, s.wait)
  { s with held := kb.1, wait := kb.2, keyEvents := s.keyEvents.tail }

/-- One decrement of a timer, never below 0 (R249, R250). -/
def countdown (t : Byte) : Byte := if t = 0 then 0 else t - 1

/-- The frame driver after a step (R249, 10_state.md R34): the step is counted; after the last one of the frame both timers
are decremented. -/
def State.frameTick (s : State) : State :=
  let within := s.fstep + 1 < stepsPerFrame
  { s with
    fstep := if within then s.fstep + 1 else 0
    DT    := if within then s.DT else countdown s.DT
    ST    := if within then s.ST else countdown s.ST }

/-- Everything between a step and the next: host events, then the frame driver (the order of R249's loop). -/
def State.betweenSteps (s : State) : State := s.hostEvents.frameTick

/-- `f` applied to the next state of an outcome. -/
def thenState (r : Result) (f : State → State) : Result :=
  match r with
  | .next s => .next (f s)
  | .fault e => .fault e
  | .refused e => .refused e

/-- A word that decodes to no instruction (30_encoding.md R84): one report, `pc` already advanced, nothing else. -/
def State.decodeErrorReport (s : State) (w : Word) : State := s.report .decodeError w s.instrAddress

end Sys2Proof.Machine
end

