-- ==== Sys2Proof/Machine/Step.lean ====
section
/-! DEFINITION. One step (30_encoding.md R70) and what follows it before the next (60_exceptions.md R249, R262). -/

namespace Sys2Proof.Machine

/-- Fetch, advance `pc`, decode, execute (R70); then the host's events and the frame driver. A word that decodes to no
instruction is reported and passed over (R84). -/
def step (s : State) : Host.Outcome State Fault Refusal :=
  let w := s.fetchWord
  match decode w with
  | .ok i => thenState (exec i s.advance) State.betweenSteps
  | .error _ => .next (s.advance.decodeErrorReport w).betweenSteps

/-- The instruction whose bits are `w` stored where the next step fetches. -/
def State.withFetchWord (s : State) (nbits w : Nat) : State := s.storeAtPc (BitVec.ofNat 16 (w % 2 ^ nbits))

end Sys2Proof.Machine
end

