-- ==== Sys2Proof/Machine/PixelReference.lean ====
section
/-! DEFINITION. The display contract of 60_exceptions.md R257 written pixel by pixel, as the rule's own loops are. The
machine uses `Framebuffer.draw`; a statement says the two are equal. -/

namespace Sys2Proof.Machine

/-- Whether a sprite drawn with its top-left corner at row `y0`, column `x0` has a set bit on the pixel (row, col): bit 7 of a
byte is the leftmost pixel, byte `r` lies on row `y0 + r` (R257). -/
def spriteBit (x0 y0 : Nat) (bytes : List Byte) (row col : Nat) : Bool :=
  decide (y0 ≤ row ∧ x0 ≤ col ∧ col < x0 + 8) && (bytes.getD (row - y0) 0).getLsbD (7 - (col - x0))

/-- A pixel inverted; nothing beyond the grid. -/
def Framebuffer.flip (fb : Framebuffer) (row col : Nat) : Framebuffer :=
  if h : row < 32 ∧ col < 64 then fb.set row (fb[row] ^^^ BitVec.twoPow 64 (63 - col)) h.1 else fb

/-- The loop body of R257 for row `r` and column `c` of the sprite: `acc` is the grid and `collided` so far. -/
def pixelStep (x0 y0 r : Nat) (b : Byte) (acc : Framebuffer × Bool) (c : Nat) : Framebuffer × Bool :=
  if b.getLsbD (7 - c) = true ∧ x0 + c < 64 ∧ y0 + r < 32 then
    (acc.1.flip (y0 + r) (x0 + c), acc.2 || acc.1.pixel (y0 + r) (x0 + c))
  else acc

/-- The inner loop of R257: columns 0..7 of one sprite byte. -/
def pixelRow (x0 y0 r : Nat) (b : Byte) (acc : Framebuffer × Bool) : Framebuffer × Bool :=
  (List.range 8).foldl (pixelStep x0 y0 r b) acc

/-- The outer loop of R257 from row `r` on. -/
def pixelRows (x0 y0 : Nat) : Nat → List Byte → Framebuffer × Bool → Framebuffer × Bool
  | _, [], acc => acc
  | r, b :: bs, acc => pixelRows x0 y0 (r + 1) bs (pixelRow x0 y0 r b acc)

/-- `DisplayDraw` of R257, pixel by pixel. -/
def Framebuffer.drawByPixel (fb : Framebuffer) (x y : Nat) (bytes : List Byte) : Framebuffer × Bool :=
  pixelRows (x % 64) (y % 32) 0 bytes (fb, false)

end Sys2Proof.Machine
end

