-- ==== Sys2Proof/WellFormed.lean ====
section
/-! DEFINITION. Well-formedness of what is given to the machine from outside: instructions and launch parameters. -/

namespace Sys2Proof

/-- Every value of every operand field is legal (30_encoding.md R74, R83), and the operand types of `Instr` hold exactly the
values of the fields (R73). So no term of `Instr` is ill formed and there is nothing to check. -/
def Instr.wf : Instr → Bool
  | .cls | .ret | .jp _ | .call _ | .seByte _ _ | .sneByte _ _ | .seReg _ _ | .ldByte _ _ | .addByte _ _ | .ldReg _ _
  | .or _ _ | .and _ _ | .xor _ _ | .addReg _ _ | .sub _ _ | .shr _ _ | .subn _ _ | .shl _ _ | .sneReg _ _ | .ldI _
  | .jpV0 _ | .rnd _ _ | .drw _ _ _ | .skp _ | .sknp _ | .ldVxDT _ | .ldVxK _ | .ldDTVx _ | .ldSTVx _ | .addI _ | .ldF _
  | .ldB _ | .ldMemV _ | .ldVMem _ => true

/-- FONT_BASE leaves room for the 80 glyph bytes below 0x200 (00_scope.md R8). -/
abbrev fontBaseFits (fontBase : Addr) : Prop := fontBase.toNat + 80 ≤ 0x200

/-- INIT_MEM names bytes of the 4096-byte memory only (70_reset_and_hazards.md R281, 20_memory.md R50). -/
abbrev cellsInMemory (cells : List Host.Cell) : Prop := ∀ c ∈ cells, c.1 < 4096

/-- A well-formed launch. An image of any length is legal: a longer one is truncated (R283). -/
abbrev Launch.wf (p : Launch) : Prop := fontBaseFits p.fontBase ∧ cellsInMemory p.initMem

end Sys2Proof
end

