-- ==== Sys2Proof/Safety.lean ====
section
/-! DEFINITION. The words claims are stated in: the invariant of every reachable state, runs of several steps, the spec's
tables of who writes what, and the states a program cannot tell apart. -/

namespace Sys2Proof.Machine

/-! ## Safe states and runs -/

/-- What every reachable state has: canonical memory (20_memory.md R50), `SP` in 0..16 (10_state.md R29), the frame count in
0..STEPS_PER_FRAME − 1 (R34), and room for the glyphs at FONT_BASE (00_scope.md R8). -/
structure State.Inv (s : State) : Prop where
  mem_wf    : s.mem.wf
  sp_le     : s.SP.toNat ≤ 16
  fstep_lt  : s.fstep < stepsPerFrame
  font_fits : fontBaseFits s.fontBase

/-- No error was reported (60_exceptions.md R240). -/
abbrev State.noErrors (s : State) : Prop := s.errlog = []

/-- The instruction the next step executes, none for a word that is a decode error. -/
def State.nextInstr (s : State) : Option Instr := (decode s.fetchWord).toOption

/-- `StepsToIn n s t`: `t` is the state after `n` steps from `s`. -/
inductive StepsToIn : Nat → State → State → Prop where
  | done (s : State) : StepsToIn 0 s s
  | more {n : Nat} {s t u : State} (first : step s = .next t) (rest : StepsToIn n t u) : StepsToIn (n + 1) s u

/-- `StepsToInWithout bad n s t`: `n` steps from `s` to `t`, none of which executes an instruction with `bad`. -/
inductive StepsToInWithout (bad : Instr → Prop) : Nat → State → State → Prop where
  | done (s : State) : StepsToInWithout bad 0 s s
  | more {n : Nat} {s t u : State} (clean : ∀ i, s.nextInstr = some i → ¬ bad i) (first : step s = .next t)
      (rest : StepsToInWithout bad n t u) : StepsToInWithout bad (n + 1) s u

/-- The values `vs` pushed one after the other (42_control.md R150). -/
def State.pushAll (s : State) (w a : Word) (vs : List Word) : State := vs.foldl (fun s v => s.push v w a) s

/-- `n` pops: the values in the order popped, and the state after (R151). -/
def State.popTimes (s : State) (w a : Word) : Nat → List Word × State
  | 0 => ([], s)
  | n + 1 =>
    let first := s.pop w a
    let rest := State.popTimes first.2 w a n
    (first.1 :: rest.1, rest.2)

/-! ## Host events and fetches -/

/-- The held flag of key `k` after the events `es` from `s`: the level of its last event (60_exceptions.md R263). -/
def State.levelAfter (s : State) (es : List KeyEvent) (k : Key) : Bool :=
  ((es.reverse.find? (fun e => e.key == k)).map KeyEvent.down).getD (s.keyHeld k)

/-- Event `e`, coming after the events `before` from `s`, is a release edge: its key was held and is let go (R263). -/
def State.releaseEdge (s : State) (before : List KeyEvent) (e : KeyEvent) : Bool := s.levelAfter before e.key && !e.down

/-- None of the events `es` from `s` is a release edge. -/
abbrev State.noReleaseEdge (s : State) (es : List KeyEvent) : Prop :=
  ∀ (i : Nat) (h : i < es.length), s.releaseEdge (es.take i) es[i] = false

/-- A fetch that reads address `a`, from whatever `pc`, sees the byte `b` there: in bits 15..8 if `a` is where `pc` points, in
bits 7..0 if it is the next address (20_memory.md R51). -/
def State.fetchSees (s : State) (a : Nat) (b : Byte) : Prop :=
  ∀ pc' : Word,
    (pc'.toNat % 4096 = a % 4096 → (State.fetchWord { s with pc := pc' }).toNat / 256 = b.toNat) ∧
    ((pc'.toNat + 1) % 4096 = a % 4096 → (State.fetchWord { s with pc := pc' }).toNat % 256 = b.toNat)

/-! ## Who writes what -/

/-- Whether an instruction may write general register `r` (the table of 10_state.md R24). -/
def writesReg : Instr → Reg → Bool
  | .ldByte x _, r | .addByte x _, r | .ldReg x _, r | .or x _, r | .and x _, r | .xor x _, r => r == x
  | .addReg x _, r | .sub x _, r | .shr x _, r | .subn x _, r | .shl x _, r => r == x || r == 15
  | .rnd x _, r | .ldVxDT x, r | .ldVxK x, r => r == x
  | .drw _ _ _, r => r == 15
  | .ldVMem x, r => decide (r ≤ x)
  | .cls, _ | .ret, _ | .jp _, _ | .call _, _ | .seByte _ _, _ | .sneByte _ _, _ | .seReg _ _, _ | .sneReg _ _, _
  | .ldI _, _ | .jpV0 _, _ | .skp _, _ | .sknp _, _ | .ldDTVx _, _ | .ldSTVx _, _ | .addI _, _ | .ldF _, _ | .ldB _, _
  | .ldMemV _, _ => false

/-- The parts of the state an instruction can write besides `pc`. -/
inductive Part where
  | registers | index | memory | stack | delayTimer | soundTimer | keyWait | errors | display | randomSource
  deriving DecidableEq, Repr

/-- The parts each instruction may write (10_state.md R24, R26 to R29, R32; 20_memory.md R57; 60_exceptions.md R241, R264). -/
def mayWrite : Instr → List Part
  | .cls => [.display]
  | .ret | .call _ => [.stack, .errors]
  | .jp _ | .jpV0 _ | .seByte _ _ | .sneByte _ _ | .seReg _ _ | .sneReg _ _ | .skp _ | .sknp _ => []
  | .ldByte _ _ | .addByte _ _ | .ldReg _ _ | .or _ _ | .and _ _ | .xor _ _ | .addReg _ _ | .sub _ _ | .shr _ _ | .subn _ _
  | .shl _ _ | .ldVxDT _ | .ldVMem _ => [.registers]
  | .ldI _ | .addI _ | .ldF _ => [.index]
  | .rnd _ _ => [.registers, .randomSource]
  | .drw _ _ _ => [.registers, .display]
  | .ldVxK _ => [.registers, .keyWait]
  | .ldDTVx _ => [.delayTimer]
  | .ldSTVx _ => [.soundTimer]
  | .ldB _ | .ldMemV _ => [.memory]

/-! ## What a program cannot tell apart -/

/-- The two states differ in the error log and the sound timer at most (10_state.md R28, R33: no instruction reads them). -/
def SameButOutputs (s t : State) : Prop := t = { s with errlog := t.errlog, ST := t.ST }

/-- The two states differ in stale stack entries at most, those at index `SP` and above (10_state.md R30). -/
def SameButStale (s t : State) : Prop :=
  t = { s with stack := t.stack } ∧ ∀ (k : Nat) (h : k < 16), k < s.SP.toNat → t.stack[k] = s.stack[k]

/-! ## The sprite of a draw, as the rules give it -/

/-- Whether the sprite of `DRW Vx, Vy, n` has a set bit on the pixel (row, col): its origin is `V[x] mod 64`, `V[y] mod 32`,
its byte `r` is the memory byte at `I + r` and lies on row `origin + r`, bit 7 leftmost (43_random_display.md R172,
60_exceptions.md R257). -/
def State.spriteOn (s : State) (x y : Reg) (n : Nibble) (row col : Nat) : Bool :=
  let x0 := (s.reg x).toNat % 64
  let y0 := (s.reg y).toNat % 32
  decide (y0 ≤ row ∧ row < y0 + n.toNat ∧ x0 ≤ col ∧ col < x0 + 8) &&
    (s.mem.read (s.I.toNat + (row - y0))).getLsbD (7 - (col - x0))

end Sys2Proof.Machine
end

