-- ==== Sys2Proof/Certificates/Slice0/Obligations.lean ====
section
/-! DEFINITION. The statements for the provers. In every statement about an instruction, `s` is the state of its execute
part: `pc` already holds the instruction's address plus 2 (30_encoding.md R70). A frame is written
`t = { s with f := t.f, … }`: every field not named is unchanged, all of memory and the registers among them. -/

open Sys2Proof Sys2Proof.Machine

/-! ## Encoding -/

/-- Decoding the word of an instruction gives it back, for all 34 instructions and every operand value: no operand bit is
dropped (30_encoding.md R73, R89). -/
def Obligations.DecodeOfEncodeIsTheInstruction : Prop := ∀ i : Instr, decode (encode i) = .ok i

/-- A word that decodes is the word of what it decodes to: a word has one meaning (R89). -/
def Obligations.DecodedWordIsItsEncoding : Prop := ∀ (w : Word) (i : Instr), decode w = .ok i → encode i = w

/-- For each of the 34 rows of R90: a word matches the row's mask and pattern iff it decodes to that row's instruction. -/
def Obligations.WordIsTheInstructionOfTheRowItMatches : Prop :=
  ∀ (w : Word) (k : Nat) (r : Word × Word), patternTable[k]? = some r →
    (w &&& r.2 = r.1 ↔ ∃ i, decode w = .ok i ∧ rowOf i = k)

/-- Exactly the words outside the families' listed operations are decode errors (R78 to R82). -/
def Obligations.DecodeErrorsAreTheHolesOfTheFamilies : Prop :=
  ∀ w : Word, (∃ e, decode w = .error e) ↔
    (fieldOp w = 0x0 ∧ w ≠ 0x00E0 ∧ w ≠ 0x00EE) ∨
    ((fieldOp w = 0x5 ∨ fieldOp w = 0x9) ∧ fieldN w ≠ 0x0) ∨
    (fieldOp w = 0x8 ∧ fieldN w ∈ ([0x8, 0x9, 0xA, 0xB, 0xC, 0xD, 0xF] : List Nibble)) ∨
    (fieldOp w = 0xE ∧ fieldKK w ∉ ([0x9E, 0xA1] : List Byte)) ∨
    (fieldOp w = 0xF ∧ fieldKK w ∉ ([0x07, 0x0A, 0x15, 0x18, 0x1E, 0x29, 0x33, 0x55, 0x65] : List Byte))

/-- The encodings the source itself shows (R76). -/
def Obligations.SourceWordsDecode : Prop :=
  decode 0x6001 = .ok (.ldByte 0 0x01) ∧ decode 0x6102 = .ok (.ldByte 1 0x02) ∧ decode 0x8014 = .ok (.addReg 0 1) ∧
  (∀ w : Word, fieldOp w = 0x6 → decode w = .ok (.ldByte (fieldX w) (fieldKK w))) ∧
  (∀ w : Word, fieldOp w = 0x8 → fieldN w = 0x4 → decode w = .ok (.addReg (fieldX w) (fieldY w)))

/-! ## The step -/

/-- The fetched word: the byte at `pc` is bits 15..8, the byte at `pc + 1` bits 7..0, both addresses modulo 4096
(20_memory.md R51; the reduction is the spec's decision D3). -/
def Obligations.FetchIsBigEndianModulo4096 : Prop :=
  ∀ s : State, s.fetchWord.toNat =
    (s.mem.read (s.pc.toNat % 4096)).toNat * 256 + (s.mem.read ((s.pc.toNat + 1) % 4096)).toNat

/-- When the word at `pc` decodes to `i`, a step is `exec i` with `pc` advanced by 2, then the host's keyboard events of this
boundary, then the frame driver's count (30_encoding.md R70, 60_exceptions.md R249; the schedule is log 3). -/
def Obligations.StepRunsTheDecodedInstruction : Prop :=
  ∀ (s : State) (i : Instr), decode s.fetchWord = .ok i →
    step s = thenState (exec i { s with pc := s.pc + 2 }) (fun t => t.hostEvents.frameTick)

/-- A word that decodes to no instruction: `pc` is advanced by 2 and one DecodeError report names the word and its address;
nothing else happens in the step (30_encoding.md R84, the reporting channel is the spec's decision D20). -/
def Obligations.DecodeErrorIsReportedAndPassedOver : Prop :=
  ∀ (s : State) (e : DecodeError), decode s.fetchWord = .error e →
    step s = .next (State.frameTick (State.hostEvents { s with
      pc := s.pc + 2,
      errlog := s.errlog ++ [{ kind := .decodeError, opcode := s.fetchWord, address := s.pc }] }))

/-- The block never halts: from every state a step answers a next state, never a fault or a refusal (60_exceptions.md R268,
the spec's decision D26). -/
def Obligations.EveryStepAnswersANextState : Prop := ∀ s : State, ∃ t, step s = .next t

/-- Every step keeps the invariant: memory stays canonical, `SP` in 0..16, the frame count below STEPS_PER_FRAME, FONT_BASE
as launched (10_state.md R29, R34; 20_memory.md R50; 00_scope.md R8). -/
def Obligations.StepKeepsTheInvariant : Prop :=
  ∀ s t : State, s.Inv → step s = .next t → t.Inv ∧ t.fontBase = s.fontBase

/-- The invariant holds at reset and at every well-formed launch. -/
def Obligations.LaunchMeetsTheInvariant : Prop :=
  State.reset.Inv ∧ ∀ p : Launch, p.wf → (State.launch p).Inv

/-! ## Reset and program load -/

/-- Every register, timer, stack entry, keyboard flag, counter and pixel at its reset value, whatever the launch parameters
(10_state.md R38, 70_reset R280; keyboard, error log, frame count and framebuffer by the spec's decision D22). -/
def Obligations.LaunchSetsTheResetValues : Prop :=
  ∀ p : Launch, let t := State.launch p; (∀ r : Reg, t.reg r = 0) ∧ t.I = 0 ∧ t.pc = 0x200 ∧ t.SP = 0 ∧
    (∀ (k : Nat) (h : k < 16), t.stack[k] = 0) ∧ t.DT = 0 ∧ t.ST = 0 ∧ (∀ k : Key, t.keyHeld k = false) ∧
    t.wait = .idle ∧ t.errlog = [] ∧ t.fstep = 0 ∧ (∀ row col, t.fb.pixel row col = false)

/-- Memory after launch, for every FONT_BASE, INIT_MEM and image: the image's first 3584 bytes from 0x200 on, the 80 glyph
bytes at FONT_BASE, and INIT_MEM everywhere else, so no byte below 0x200 but the glyphs is written (70_reset R280, R281,
R283; 45_index_memory.md R216). -/
def Obligations.LaunchMemoryIsImageGlyphsAndInitMem : Prop :=
  ∀ p : Launch, p.wf →
    (∀ (i : Nat) (h : i < p.image.length), i < 3584 → (State.launch p).mem.read (0x200 + i) = p.image[i]) ∧
    (∀ d r : Nat, d < 16 → r < 5 →
      (State.launch p).mem.read (p.fontBase.toNat + 5 * d + r) = (glyphs.getD d []).getD r 0) ∧
    (∀ a : Nat, a < 4096 → ¬ (p.fontBase.toNat ≤ a ∧ a < p.fontBase.toNat + 80) →
      ¬ (0x200 ≤ a ∧ a < 0x200 + p.image.length) → (State.launch p).mem.read a = (Memory.ofCells p.initMem).read a)

/-! ## Memory -/

/-- A byte written reads back, at its own address and every address that reduces to it; every other byte is unchanged
(20_memory.md R52, R53; the reduction is the spec's decision D3). -/
def Obligations.MemoryReadsTheLastWrite : Prop :=
  ∀ (m : Memory) (a b : Nat) (v : Byte), m.wf →
    (m.write a v).wf ∧ (m.write a v).read b = if b % 4096 = a % 4096 then v else m.read b

/-- A byte stored is seen by the next fetch, whatever the `pc` (20_memory.md R65): after a step of LD [I], Vx and of LD B, Vx
every fetch, that of the next step among them, sees the stored bytes; so does one after a single byte written, and one after
both bytes at `pc` (the reduction modulo 4096 is the spec's decision D3). -/
def Obligations.NextFetchSeesTheStoredBytes : Prop :=
  ∀ s : State, s.mem.wf →
    (∀ x : Reg, decode s.fetchWord = .ok (.ldMemV x) → ∃ t, step s = .next t ∧ t.pc = s.pc + 2 ∧
      ∀ r : Reg, r ≤ x → t.fetchSees (s.I.toNat + r.val) (s.reg r)) ∧
    (∀ x : Reg, decode s.fetchWord = .ok (.ldB x) → ∃ t, step s = .next t ∧ t.pc = s.pc + 2 ∧
      t.fetchSees s.I.toNat (BitVec.ofNat 8 ((s.reg x).toNat / 100)) ∧
      t.fetchSees (s.I.toNat + 1) (BitVec.ofNat 8 ((s.reg x).toNat / 10 % 10)) ∧
      t.fetchSees (s.I.toNat + 2) (BitVec.ofNat 8 ((s.reg x).toNat % 10))) ∧
    (∀ (a : Nat) (b : Byte), State.fetchSees { s with mem := s.mem.write a b } a b) ∧
    (∀ hi lo : Byte, (State.fetchWord { s with mem := (s.mem.write s.pc.toNat hi).write (s.pc.toNat + 1) lo }).toNat =
      hi.toNat * 256 + lo.toNat)

/-! ## Register loads and the ALU -/

/-- LD Vx, byte; ADD Vx, byte; LD Vx, Vy: the destination's new value, and nothing else written, VF included unless it is the
destination (40_alu.md R103, R104, R105). -/
def Obligations.LoadsAndImmediateAddWriteVxOnly : Prop :=
  ∀ (x y : Reg) (kk : Byte) (s : State),
    (decode (packXKK 0x6 x kk) = .ok (.ldByte x kk) ∧ ∃ t, exec (.ldByte x kk) s = .next t ∧
      (∀ r, t.reg r = if r = x then kk else s.reg r) ∧ t = { s with V := t.V }) ∧
    (decode (packXKK 0x7 x kk) = .ok (.addByte x kk) ∧ ∃ t, exec (.addByte x kk) s = .next t ∧
      (∀ r, (t.reg r).toNat = if r = x then ((s.reg x).toNat + kk.toNat) % 256 else (s.reg r).toNat) ∧
      t = { s with V := t.V }) ∧
    (decode (packXYN 0x8 x y 0x0) = .ok (.ldReg x y) ∧ ∃ t, exec (.ldReg x y) s = .next t ∧
      (∀ r, t.reg r = if r = x then s.reg y else s.reg r) ∧ t = { s with V := t.V })

/-- OR, AND, XOR bit by bit; VF is not written unless it is the destination (R106, R107, R108; the spec's decision D8). -/
def Obligations.LogicWritesVxAndLeavesVF : Prop :=
  ∀ (x y : Reg) (s : State),
    (∃ t, exec (.or x y) s = .next t ∧ t = { s with V := t.V } ∧ ∀ (r : Reg) (b : Nat), b < 8 →
      (t.reg r).getLsbD b = if r = x then ((s.reg x).getLsbD b || (s.reg y).getLsbD b) else (s.reg r).getLsbD b) ∧
    (∃ t, exec (.and x y) s = .next t ∧ t = { s with V := t.V } ∧ ∀ (r : Reg) (b : Nat), b < 8 →
      (t.reg r).getLsbD b = if r = x then ((s.reg x).getLsbD b && (s.reg y).getLsbD b) else (s.reg r).getLsbD b) ∧
    (∃ t, exec (.xor x y) s = .next t ∧ t = { s with V := t.V } ∧ ∀ (r : Reg) (b : Nat), b < 8 →
      (t.reg r).getLsbD b = if r = x then ((s.reg x).getLsbD b ^^ (s.reg y).getLsbD b) else (s.reg r).getLsbD b)

/-- ADD Vx, Vy: the sum modulo 256 in `Vx`, then VF is 1 iff the sum exceeded 255; for `x = 15` the flag survives
(R109, whose corner cases cite R102). -/
def Obligations.AddRegGivesSumAndCarry : Prop :=
  ∀ (x y : Reg) (s : State), decode (packXYN 0x8 x y 0x4) = .ok (.addReg x y) ∧
    ∃ t, exec (.addReg x y) s = .next t ∧ t = { s with V := t.V } ∧ ∀ r : Reg, (t.reg r).toNat =
      if r = 15 then (if (s.reg x).toNat + (s.reg y).toNat > 255 then 1 else 0)
      else if r = x then ((s.reg x).toNat + (s.reg y).toNat) % 256
      else (s.reg r).toNat

/-- SUB and SUBN: the difference modulo 256 in `Vx`, then VF is 1 iff no borrow occurred (R110, R112; the write order for
`x = 15` is the spec's decision D7). -/
def Obligations.SubtractionsGiveDifferenceAndNoBorrow : Prop :=
  ∀ (x y : Reg) (s : State),
    (∃ t, exec (.sub x y) s = .next t ∧ t = { s with V := t.V } ∧ ∀ r : Reg, ((t.reg r).toNat : Int) =
      if r = 15 then (if (s.reg x).toNat ≥ (s.reg y).toNat then 1 else 0)
      else if r = x then (((s.reg x).toNat : Int) - (s.reg y).toNat) % 256
      else (s.reg r).toNat) ∧
    (∃ t, exec (.subn x y) s = .next t ∧ t = { s with V := t.V } ∧ ∀ r : Reg, ((t.reg r).toNat : Int) =
      if r = 15 then (if (s.reg y).toNat ≥ (s.reg x).toNat then 1 else 0)
      else if r = x then (((s.reg y).toNat : Int) - (s.reg x).toNat) % 256
      else (s.reg r).toNat)

/-- SHR and SHL by one: VF is the bit shifted out; the field `y` plays no part (R111, R113; the write order for `x = 15` is
the spec's decision D7). -/
def Obligations.ShiftsGiveResultAndShiftedOutBit : Prop :=
  ∀ (x y : Reg) (s : State),
    (∃ t, exec (.shr x y) s = .next t ∧ t = { s with V := t.V } ∧ ∀ r : Reg, (t.reg r).toNat =
      if r = 15 then (s.reg x).toNat % 2 else if r = x then (s.reg x).toNat / 2 else (s.reg r).toNat) ∧
    (∃ t, exec (.shl x y) s = .next t ∧ t = { s with V := t.V } ∧ ∀ r : Reg, (t.reg r).toNat =
      if r = 15 then (s.reg x).toNat / 128 else if r = x then 2 * (s.reg x).toNat % 256 else (s.reg r).toNat)

/-! ## Skips -/

/-- The four comparison skips: `pc` a further 2 on when the comparison holds, nothing else written (41_skip.md R130 to
R133). -/
def Obligations.ComparisonSkipsMovePcOnly : Prop :=
  ∀ (x y : Reg) (kk : Byte) (s : State),
    (decode (packXKK 0x3 x kk) = .ok (.seByte x kk) ∧ ∃ t, exec (.seByte x kk) s = .next t ∧ t = { s with pc := t.pc } ∧
      t.pc.toNat = if (s.reg x).toNat = kk.toNat then (s.pc.toNat + 2) % 65536 else s.pc.toNat) ∧
    (decode (packXKK 0x4 x kk) = .ok (.sneByte x kk) ∧ ∃ t, exec (.sneByte x kk) s = .next t ∧ t = { s with pc := t.pc } ∧
      t.pc.toNat = if (s.reg x).toNat ≠ kk.toNat then (s.pc.toNat + 2) % 65536 else s.pc.toNat) ∧
    (decode (packXYN 0x5 x y 0x0) = .ok (.seReg x y) ∧ ∃ t, exec (.seReg x y) s = .next t ∧ t = { s with pc := t.pc } ∧
      t.pc.toNat = if (s.reg x).toNat = (s.reg y).toNat then (s.pc.toNat + 2) % 65536 else s.pc.toNat) ∧
    (decode (packXYN 0x9 x y 0x0) = .ok (.sneReg x y) ∧ ∃ t, exec (.sneReg x y) s = .next t ∧ t = { s with pc := t.pc } ∧
      t.pc.toNat = if (s.reg x).toNat ≠ (s.reg y).toNat then (s.pc.toNat + 2) % 65536 else s.pc.toNat) ∧
    (∀ n : Nibble, n ≠ 0x0 → decode (packXYN 0x5 x y n) = .error .malformedNibble ∧
      decode (packXYN 0x9 x y n) = .error .malformedNibble)

/-- SKP and SKNP: skip by the held flag of the key numbered by the low nibble of `Vx`, nothing else written (R134, R135; the
low nibble is the spec's decision D14). -/
def Obligations.KeySkipsTestTheHeldFlag : Prop :=
  ∀ (x : Reg) (k : Key) (s : State), (s.reg x).toNat % 16 = k.val →
    (∃ t, exec (.skp x) s = .next t ∧ t = { s with pc := t.pc } ∧
      t.pc.toNat = if s.keyHeld k = true then (s.pc.toNat + 2) % 65536 else s.pc.toNat) ∧
    (∃ t, exec (.sknp x) s = .next t ∧ t = { s with pc := t.pc } ∧
      t.pc.toNat = if s.keyHeld k = true then s.pc.toNat else (s.pc.toNat + 2) % 65536)

/-! ## Jumps, calls, returns, the stack -/

/-- JP addr: `pc` is the 12-bit address, odd or below 0x200 as it may be; nothing else is written (42_control.md R152). -/
def Obligations.JumpSetsPcToTheAddress : Prop :=
  ∀ (nnn : Addr) (s : State), decode (packNNN 0x1 nnn) = .ok (.jp nnn) ∧
    ∃ t, exec (.jp nnn) s = .next t ∧ t = { s with pc := t.pc } ∧ t.pc.toNat = nnn.toNat

/-- JP V0, addr: `pc = V0 + nnn`, with nothing masked; nothing else is written (R155; the spec's decision D3 keeps a sum
above 0xFFF). -/
def Obligations.JumpV0AddsV0Unmasked : Prop :=
  ∀ (nnn : Addr) (s : State), ∃ t, exec (.jpV0 nnn) s = .next t ∧ t = { s with pc := t.pc } ∧
    t.pc.toNat = (s.reg 0).toNat + nnn.toNat

/-- CALL addr with room on the stack: the address after the CALL is pushed on entry `SP`, `SP` counts up, the jump is taken
(R150, R153; the spec's decision D12). -/
def Obligations.CallPushesTheReturnAddress : Prop :=
  ∀ (nnn : Addr) (s : State), s.SP.toNat < 16 → ∃ t, exec (.call nnn) s = .next t ∧
    t = { s with stack := t.stack, SP := t.SP, pc := t.pc } ∧ t.pc.toNat = nnn.toNat ∧ t.SP.toNat = s.SP.toNat + 1 ∧
    ∀ (k : Nat) (h : k < 16), t.stack[k] = if k = s.SP.toNat then s.pc else s.stack[k]

/-- CALL addr on a full stack: one StackOverflow report names the CALL and its address, nothing is pushed, the jump is taken
(R150, R153, 60_exceptions.md R241; the spec's decision D12). -/
def Obligations.CallOnAFullStackReportsAndJumps : Prop :=
  ∀ (nnn : Addr) (s : State), s.SP = 16 → ∃ t, exec (.call nnn) s = .next t ∧
    t = { s with errlog := t.errlog, pc := t.pc } ∧ t.pc.toNat = nnn.toNat ∧
    t.errlog = s.errlog ++ [{ kind := .stackOverflow, opcode := packNNN 0x2 nnn, address := s.pc - 2 }]

/-- RET with an entry on the stack: `pc` is the top entry and `SP` counts down; the entry is not cleared (R151, R154). -/
def Obligations.RetTakesTheTopEntry : Prop :=
  ∀ s : State, 0 < s.SP.toNat → s.SP.toNat ≤ 16 → ∃ t, exec .ret s = .next t ∧
    t = { s with SP := t.SP, pc := t.pc } ∧ t.SP.toNat + 1 = s.SP.toNat ∧
    ∀ (k : Nat) (h : k < 16), k + 1 = s.SP.toNat → t.pc = s.stack[k]

/-- RET on an empty stack: one StackUnderflow report, `SP` stays 0, `pc` is 0x0000 (R151, R154, 60_exceptions.md R241; the
spec's decision D12). -/
def Obligations.RetOnAnEmptyStackReportsAndGoesToZero : Prop :=
  ∀ s : State, s.SP = 0 → ∃ t, exec .ret s = .next t ∧ t = { s with errlog := t.errlog, pc := t.pc } ∧ t.pc = 0x0000 ∧
    t.errlog = s.errlog ++ [{ kind := .stackUnderflow, opcode := 0x00EE, address := s.pc - 2 }]

/-- The primitive Pop: the top entry and `SP` one lower with the entry left in place, or on an empty stack a report, the
value 0 and `SP` still 0 (R151). -/
def Obligations.PopTakesTheTopOrReports : Prop :=
  ∀ (s : State) (w a : Word), s.SP.toNat ≤ 16 →
    (s.SP = 0 → (s.pop w a).1 = 0x0000 ∧
      (s.pop w a).2 = { s with errlog := s.errlog ++ [{ kind := .stackUnderflow, opcode := w, address := a }] }) ∧
    (∀ (k : Nat) (h : k < 16), s.SP.toNat = k + 1 → (s.pop w a).1 = s.stack[k] ∧
      (s.pop w a).2.SP.toNat = k ∧ (s.pop w a).2 = { s with SP := (s.pop w a).2.SP })

/-- CALL and then RET, whatever runs between them leaves the stack alone: `pc` is the address right after the CALL and `SP` as
before it (R153, R154). -/
def Obligations.RetAfterCallReturnsBehindTheCall : Prop :=
  ∀ (nnn : Addr) (s : State), s.SP.toNat < 16 → ∃ t, exec (.call nnn) s = .next t ∧
    ∀ u : State, u.SP = t.SP → u.stack = t.stack → ∃ v, exec .ret u = .next v ∧ v.pc = s.pc ∧ v.SP = s.SP

/-- Values pushed while there is room are popped in the reverse order without loss or report, and `SP` is as before
(R150, R151). -/
def Obligations.PopsReturnThePushesInReverse : Prop :=
  ∀ (s : State) (vs : List Word) (w a : Word), s.SP.toNat + vs.length ≤ 16 →
    ((s.pushAll w a vs).popTimes w a vs.length).1 = vs.reverse ∧
    ((s.pushAll w a vs).popTimes w a vs.length).2 =
      { s with stack := ((s.pushAll w a vs).popTimes w a vs.length).2.stack } ∧
    ∀ (k : Nat) (h : k < 16), k < s.SP.toNat →
      ((s.pushAll w a vs).popTimes w a vs.length).2.stack[k] = s.stack[k]

/-! ## Random bytes and the display -/

/-- RND Vx, byte: the draw under the mask in `Vx`; nothing else of the block is written (43_random_display.md R171). The draw
`s.randByte` is a free value (the spec's decision D19), and the count of draws, one more after it, is the model's own (log 4,
DESIGN CHOICE). -/
def Obligations.RndPutsTheMaskedDrawInVx : Prop :=
  ∀ (x : Reg) (kk : Byte) (s : State), decode (packXKK 0xC x kk) = .ok (.rnd x kk) ∧
    ∃ t, exec (.rnd x kk) s = .next t ∧ t = { s with V := t.V, draws := s.draws + 1 } ∧
      ∀ (r : Reg) (b : Nat), b < 8 →
        (t.reg r).getLsbD b = if r = x then (s.randByte.getLsbD b && kk.getLsbD b) else (s.reg r).getLsbD b

/-- CLS: every pixel unset, nothing else written (R174, 60_exceptions.md R255). -/
def Obligations.ClsUnsetsEveryPixel : Prop :=
  ∀ s : State, decode 0x00E0 = .ok .cls ∧
    ∃ t, exec .cls s = .next t ∧ t = { s with fb := t.fb } ∧ ∀ row col, t.fb.pixel row col = false

/-- DRW: each pixel is XORed with the sprite's bit there; VF is 1 iff a set pixel became unset; what lies beyond the right or
bottom edge is not drawn; nothing else is written (R172, 60_exceptions.md R257; the held display is the spec's decision
D27). -/
def Obligations.DrwXorsTheSpriteAndReportsCollision : Prop :=
  ∀ (x y : Reg) (n : Nibble) (s : State), ∃ t, exec (.drw x y n) s = .next t ∧ t = { s with fb := t.fb, V := t.V } ∧
    (∀ row < 32, ∀ col < 64, t.fb.pixel row col = (s.fb.pixel row col ^^ s.spriteOn x y n row col)) ∧
    (∀ r : Reg, r ≠ 15 → t.reg r = s.reg r) ∧
    ((∃ row < 32, ∃ col < 64, s.fb.pixel row col = true ∧ t.fb.pixel row col = false) → t.reg 15 = 1) ∧
    (¬ (∃ row < 32, ∃ col < 64, s.fb.pixel row col = true ∧ t.fb.pixel row col = false) → t.reg 15 = 0)

/-- The machine's row-wise draw is the display contract of 60_exceptions.md R257 written pixel by pixel: the same grid and
the same collision answer. -/
def Obligations.DrawIsThePixelLoopOfTheContract : Prop :=
  ∀ (fb : Framebuffer) (x y : Nat) (bytes : List Byte), fb.draw x y bytes = fb.drawByPixel x y bytes

/-- The same sprite drawn twice, VF no coordinate: the screen is as before; if no pixel under the sprite was set, the first
draw reports no collision and the second reports one iff the sprite set some pixel on the screen (R172, 60_exceptions.md
R257). -/
def Obligations.DrawingTwiceRestoresTheScreen : Prop :=
  ∀ (x y : Reg) (n : Nibble) (s : State), x ≠ 15 → y ≠ 15 → ∃ t u,
    exec (.drw x y n) s = .next t ∧ exec (.drw x y n) t = .next u ∧ u.fb = s.fb ∧
    ((∀ row < 32, ∀ col < 64, s.spriteOn x y n row col = true → s.fb.pixel row col = false) →
      t.reg 15 = 0 ∧ (u.reg 15 = 1 ↔ ∃ row < 32, ∃ col < 64, s.spriteOn x y n row col = true))

/-! ## Keyboard -/

/-- LD Vx, K: a captured key is stored and the status returns to Idle; otherwise the step ends waiting with `pc` back at the
instruction (44_keyboard_timers.md R190; the rewind is the spec's decision D10). -/
def Obligations.KeyWaitStoresOrRewinds : Prop :=
  ∀ (x : Reg) (s : State),
    (∀ k : Key, s.wait = .keyCaptured k → ∃ t, exec (.ldVxK x) s = .next t ∧ t = { s with V := t.V, wait := .idle } ∧
      ∀ r : Reg, (t.reg r).toNat = if r = x then k.val else (s.reg r).toNat) ∧
    (s.wait = .idle → exec (.ldVxK x) s = .next { s with wait := .waitingForKey, pc := s.pc - 2 }) ∧
    (s.wait = .waitingForKey → exec (.ldVxK x) s = .next { s with pc := s.pc - 2 })

/-- `set_held(k, b)`: the flag takes the level; the status changes only on a release edge while waiting, and then holds that
key (60_exceptions.md R263; releases outside the wait by the spec's decision D11). -/
def Obligations.ReleaseEdgeWhileWaitingCaptures : Prop :=
  ∀ (s : State) (k : Key) (b : Bool),
    s.setHeld k b = { s with held := (s.setHeld k b).held, wait := (s.setHeld k b).wait } ∧
    (∀ j : Key, (s.setHeld k b).keyHeld j = if j = k then b else s.keyHeld j) ∧
    (s.keyHeld k = true ∧ b = false ∧ s.wait = .waitingForKey → (s.setHeld k b).wait = .keyCaptured k) ∧
    (¬ (s.keyHeld k = true ∧ b = false ∧ s.wait = .waitingForKey) → (s.setHeld k b).wait = s.wait)

/-- The wait state machine is complete: LD Vx, K goes from Idle to WaitingForKey and from KeyCaptured to Idle, a host event
from WaitingForKey to KeyCaptured of the released key, and every other instruction neither reads nor changes the status
(60_exceptions.md R264). -/
def Obligations.OnlyKeyWaitAndReleasesTouchTheStatus : Prop :=
  (∀ (x : Reg) (s t : State), exec (.ldVxK x) s = .next t →
    (s.wait = .idle → t.wait = .waitingForKey) ∧ (s.wait = .waitingForKey → t.wait = .waitingForKey) ∧
    (∀ k, s.wait = .keyCaptured k → t.wait = .idle)) ∧
  (∀ (s : State) (k : Key) (b : Bool), (s.setHeld k b).wait ≠ s.wait →
    s.wait = .waitingForKey ∧ (s.setHeld k b).wait = .keyCaptured k ∧ s.keyHeld k = true ∧ b = false) ∧
  (∀ (i : Instr) (s : State) (w : KeyWait), (∀ x, i ≠ .ldVxK x) →
    ∃ t, exec i s = .next t ∧ t.wait = s.wait ∧ exec i { s with wait := w } = .next { t with wait := w })

/-- While the host releases no key, LD Vx, K holds the machine at its own address for any number of steps: `pc`, registers,
memory and stack are unchanged and no key is captured (44_keyboard_timers.md R192, R191). -/
def Obligations.KeyWaitHoldsUntilARelease : Prop :=
  ∀ (n : Nat) (s : State) (x : Reg), decode s.fetchWord = .ok (.ldVxK x) → (∀ k, s.wait ≠ .keyCaptured k) →
    (∀ es ∈ s.keyEvents.take n, ∀ e ∈ es, e.down = true) →
    ∃ t, StepsToIn n s t ∧ t.pc = s.pc ∧ t.V = s.V ∧ t.mem = s.mem ∧ t.I = s.I ∧ t.SP = s.SP ∧ t.stack = s.stack ∧
      t.errlog = s.errlog ∧ (0 < n → t.wait = .waitingForKey) ∧ t.keyEvents = s.keyEvents.drop n

/-- A release while waiting ends the wait: if LD Vx, K runs with no key captured and the boundary after it holds a release edge,
whatever events come before and after it, the first such edge's key is captured, and the next step stores it and moves on
(R190, 60_exceptions.md R262, R263; the rewind is the spec's decision D10, the first edge winning is D11, the schedule is log
3). -/
def Obligations.ReleaseEndsTheKeyWait : Prop :=
  ∀ (s : State) (x : Reg) (k : Key) (pre post : List KeyEvent) (later : List (List KeyEvent)),
    decode s.fetchWord = .ok (.ldVxK x) → (∀ j : Key, s.wait ≠ .keyCaptured j) →
    s.keyEvents = (pre ++ { key := k, down := false } :: post) :: later → s.noReleaseEdge pre → s.levelAfter pre k = true →
    ∃ t u, step s = .next t ∧ t.wait = .keyCaptured k ∧ t.pc = s.pc ∧ t.V = s.V ∧
      step t = .next u ∧ (u.reg x).toNat = k.val ∧ u.wait = .idle ∧ u.pc = s.pc + 2

/-- After the host events of a boundary a key's flag is the level of its last event, or unchanged if it had none
(60_exceptions.md R262, R263; the schedule is log 3). -/
def Obligations.HeldFlagIsTheLastEvent : Prop :=
  ∀ (s : State) (es : List KeyEvent) (later : List (List KeyEvent)) (k : Key), s.keyEvents = es :: later →
    s.hostEvents.keyHeld k = (((es.reverse.find? (fun e => e.key == k)).map KeyEvent.down).getD (s.keyHeld k)) ∧
    s.hostEvents.keyEvents = later

/-- The wait status after the host events of a boundary: unchanged outside a wait; in a wait the key of the first release edge
is captured, later events not replacing it, and with no release edge the wait goes on (60_exceptions.md R262, R263; the first
edge winning is the spec's decision D11, the schedule is log 3). -/
def Obligations.FirstReleaseEdgeOfABoundaryIsCaptured : Prop :=
  ∀ (s : State) (es : List KeyEvent) (later : List (List KeyEvent)), s.keyEvents = es :: later →
    (s.wait ≠ .waitingForKey → s.hostEvents.wait = s.wait) ∧
    (s.wait = .waitingForKey → s.noReleaseEdge es → s.hostEvents.wait = .waitingForKey) ∧
    (s.wait = .waitingForKey → ∀ (pre post : List KeyEvent) (e : KeyEvent), es = pre ++ e :: post →
      s.noReleaseEdge pre → s.releaseEdge pre e = true → s.hostEvents.wait = .keyCaptured e.key)

/-! ## Timers and frames -/

/-- LD Vx, DT (`V[x] <- DT`) and LD DT, Vx (`DT <- V[x]`): the timer read and set, nothing else written
(44_keyboard_timers.md R193, R194). -/
def Obligations.DelayTimerIsReadAndSet : Prop :=
  ∀ (x : Reg) (s : State),
    (decode (packXKK 0xF x 0x07) = .ok (.ldVxDT x) ∧ ∃ t, exec (.ldVxDT x) s = .next t ∧ t = { s with V := t.V } ∧
      ∀ r : Reg, t.reg r = if r = x then s.DT else s.reg r) ∧
    (decode (packXKK 0xF x 0x15) = .ok (.ldDTVx x) ∧ exec (.ldDTVx x) s = .next { s with DT := s.reg x })

/-- LD ST, Vx: the timer set, nothing else written; the sound output is on iff the value is not 0 (R195, 10_state.md R28; the
output is the spec's decision D24). -/
def Obligations.SoundTimerIsSetAndHeard : Prop :=
  ∀ (x : Reg) (s : State), ∃ t, exec (.ldSTVx x) s = .next t ∧ t = { s with ST := s.reg x } ∧
    (t.soundActive = true ↔ (s.reg x).toNat ≠ 0)

/-- A step counts in its frame, the step of a decode error too; the timers are decremented, never below 0, after the last step
of a frame and only then: in every other step they are what the instruction left, or as they were if the word decodes to none
(30_encoding.md R84, 60_exceptions.md R249, R250; the spec's decisions D18, D20, D28). -/
def Obligations.TimersCountDownAtFrameEndOnly : Prop :=
  ∀ (s : State) (dt st : Byte), s.fstep < 10 →
    (∃ i t, decode s.fetchWord = .ok i ∧ exec i { s with pc := s.pc + 2 } = .next t ∧ dt = t.DT ∧ st = t.ST) ∨
      ((∃ e, decode s.fetchWord = .error e) ∧ dt = s.DT ∧ st = s.ST) →
    ∃ u, step s = .next u ∧
      (s.fstep = 9 → u.fstep = 0 ∧ u.DT.toNat = dt.toNat - 1 ∧ u.ST.toNat = st.toNat - 1) ∧
      (s.fstep ≠ 9 → u.fstep = s.fstep + 1 ∧ u.DT = dt ∧ u.ST = st)

/-- Over any number of steps that execute no LD DT, Vx, the delay timer falls by one for each frame end passed, never below
0; the frame count is the step count modulo 10 (60_exceptions.md R249, R250, 70_reset R287). -/
def Obligations.DelayTimerFallsOncePerFrame : Prop :=
  ∀ (n : Nat) (s t : State), s.fstep < 10 → StepsToInWithout (fun i => ∃ x, i = .ldDTVx x) n s t →
    t.DT.toNat = s.DT.toNat - (s.fstep + n) / 10 ∧ t.fstep = (s.fstep + n) % 10

/-! ## The index register and memory transfers -/

/-- LD I, addr: the address zero-extended, nothing else written (45_index_memory.md R210). -/
def Obligations.LoadISetsTheAddress : Prop :=
  ∀ (nnn : Addr) (s : State), decode (packNNN 0xA nnn) = .ok (.ldI nnn) ∧
    ∃ t, exec (.ldI nnn) s = .next t ∧ t = { s with I := t.I } ∧ t.I.toNat = nnn.toNat

/-- ADD I, Vx modulo 65536 without a flag, and LD F, Vx: FONT_BASE plus five times the low nibble, for every FONT_BASE with
room for the glyphs or not (R211, R212; the spec's decisions D15, D16, D17). -/
def Obligations.AddIAndLoadFSetI : Prop :=
  ∀ (x : Reg) (s : State),
    (∃ t, exec (.addI x) s = .next t ∧ t = { s with I := t.I } ∧ t.I.toNat = (s.I.toNat + (s.reg x).toNat) % 65536) ∧
    (∃ t, exec (.ldF x) s = .next t ∧ t = { s with I := t.I } ∧
      t.I.toNat = s.fontBase.toNat + 5 * ((s.reg x).toNat % 16))

/-- LD B, Vx: hundreds, tens and ones at `I`, `I + 1`, `I + 2`, each address modulo 4096; every other byte, `I` and
everything else unchanged (R213; the reduction, for every `I`, is the spec's decision D3). -/
def Obligations.BcdStoresThreeDigits : Prop :=
  ∀ (x : Reg) (s : State), s.mem.wf → decode (packXKK 0xF x 0x33) = .ok (.ldB x) ∧
    ∃ t, exec (.ldB x) s = .next t ∧ t = { s with mem := t.mem } ∧
      (t.mem.read s.I.toNat).toNat = (s.reg x).toNat / 100 ∧
      (t.mem.read (s.I.toNat + 1)).toNat = (s.reg x).toNat / 10 % 10 ∧
      (t.mem.read (s.I.toNat + 2)).toNat = (s.reg x).toNat % 10 ∧
      ∀ a : Nat, (∀ j < 3, a % 4096 ≠ (s.I.toNat + j) % 4096) → t.mem.read a = s.mem.read a

/-- LD [I], Vx: V0..Vx inclusive at `I`, `I + 1`, …, each address modulo 4096; every other byte, `I` and everything else
unchanged (R214; `I` unchanged is the spec's decision D9, the reduction D3). -/
def Obligations.RegistersAreStoredInclusively : Prop :=
  ∀ (x : Reg) (s : State), s.mem.wf → ∃ t, exec (.ldMemV x) s = .next t ∧ t = { s with mem := t.mem } ∧
    (∀ r : Reg, r ≤ x → t.mem.read (s.I.toNat + r.val) = s.reg r) ∧
    ∀ a : Nat, (∀ j ≤ x.val, a % 4096 ≠ (s.I.toNat + j) % 4096) → t.mem.read a = s.mem.read a

/-- LD Vx, [I]: V0..Vx inclusive from `I`, `I + 1`, …, each address modulo 4096; the other registers, `I`, all of memory and
everything else unchanged (R215; `I` unchanged is the spec's decision D9, the reduction D3). -/
def Obligations.RegistersAreLoadedInclusively : Prop :=
  ∀ (x : Reg) (s : State), ∃ t, exec (.ldVMem x) s = .next t ∧ t = { s with V := t.V } ∧
    ∀ r : Reg, t.reg r = if r ≤ x then s.mem.read ((s.I.toNat + r.val) % 4096) else s.reg r

/-! ## The whole machine -/

/-- A general register changes only under an instruction the table of 10_state.md R24 lists for it (OR, AND, XOR without VF
by the spec's decision D8). -/
def Obligations.RegistersChangeOnlyByTheirWriters : Prop :=
  ∀ (i : Instr) (s t : State) (r : Reg), exec i s = .next t → t.reg r ≠ s.reg r → writesReg i r = true

/-- Each part of the state changes only under the instructions the spec lists as its writers; no instruction touches the held
flags or the frame count (10_state.md R24, R26 to R34, 20_memory.md R57). The clauses on FONT_BASE, the host's schedule and the
count of draws are about the model's own fields (logs 2, 3 and 4, DESIGN CHOICE). -/
def Obligations.PartsChangeOnlyByTheirWriters : Prop :=
  ∀ (i : Instr) (s t : State), exec i s = .next t →
    (t.V ≠ s.V → .registers ∈ mayWrite i) ∧ (t.I ≠ s.I → .index ∈ mayWrite i) ∧ (t.mem ≠ s.mem → .memory ∈ mayWrite i) ∧
    (t.SP ≠ s.SP ∨ t.stack ≠ s.stack → .stack ∈ mayWrite i) ∧ (t.DT ≠ s.DT → .delayTimer ∈ mayWrite i) ∧
    (t.ST ≠ s.ST → .soundTimer ∈ mayWrite i) ∧ (t.wait ≠ s.wait → .keyWait ∈ mayWrite i) ∧
    (t.errlog ≠ s.errlog → .errors ∈ mayWrite i) ∧ (t.fb ≠ s.fb → .display ∈ mayWrite i) ∧
    (t.draws ≠ s.draws → .randomSource ∈ mayWrite i) ∧
    t.held = s.held ∧ t.fstep = s.fstep ∧ t.fontBase = s.fontBase ∧ t.keyEvents = s.keyEvents

/-- A step makes at most one report, appended to the log; it names the word and the address the step fetched, and its kind
tells its cause: no instruction decoded, a CALL with `SP = 16`, or a RET with `SP = 0` (60_exceptions.md R240, R241, R243; the
log is the spec's decision D20). -/
def Obligations.StepReportsAtMostOnceAndTruly : Prop :=
  ∀ s t : State, step s = .next t →
    t.errlog = s.errlog ∨ ∃ kind, t.errlog = s.errlog ++ [{ kind := kind, opcode := s.fetchWord, address := s.pc }] ∧
      (kind = .decodeError → s.nextInstr = none) ∧
      (kind = .stackOverflow → (∃ nnn, s.nextInstr = some (.call nnn)) ∧ s.SP = 16) ∧
      (kind = .stackUnderflow → s.nextInstr = some .ret ∧ s.SP = 0)

/-- No instruction reads the error log or the sound timer: two states that differ in these alone step to states that differ
in these alone (10_state.md R28, R33). -/
def Obligations.ErrorLogAndSoundTimerAreNeverRead : Prop :=
  ∀ s t s' : State, SameButOutputs s t → step s = .next s' → ∃ t', step t = .next t' ∧ SameButOutputs s' t'

/-- Stale stack entries cannot be observed: two states that differ in entries at index `SP` and above alone step to states
that differ in such entries alone (10_state.md R30). -/
def Obligations.StaleStackEntriesAreNeverObserved : Prop :=
  ∀ s t s' : State, s.SP.toNat ≤ 16 → SameButStale s t → step s = .next s' → ∃ t', step t = .next t' ∧ SameButStale s' t'

/-- Bits 15..12 of `pc` play no part in what is fetched: `pc` keeps 16 bits and the memory reduces (10_state.md R25,
00_scope.md R9; the spec's decision D3). -/
def Obligations.FetchIgnoresTheTopBitsOfPc : Prop :=
  ∀ (s : State) (pc' : Word), pc'.toNat % 4096 = s.pc.toNat % 4096 → State.fetchWord { s with pc := pc' } = s.fetchWord
end

