-- ==== Sys2Proof/Laws/Decode.lean ====
section
/-! SUPPORT. Fields and formats of the instruction word as numbers (30_encoding.md R73), the fields of a packed word, and a
word packed from its own fields. -/

namespace Sys2Proof

/-! ## Fields and formats as numbers -/

theorem toNat_append_add {m n : Nat} (a : BitVec m) (b : BitVec n) : (a ++ b).toNat = a.toNat * 2 ^ n + b.toNat := by
  rw [BitVec.toNat_append, ← Nat.shiftLeft_add_eq_or_of_lt b.isLt, Nat.shiftLeft_eq]

theorem toNat_fieldOp (w : Word) : (fieldOp w).toNat = w.toNat / 4096 % 16 := by
  simp [fieldOp, BitVec.extractLsb'_toNat, Nat.shiftRight_eq_div_pow]

theorem val_fieldX (w : Word) : (fieldX w).val = w.toNat / 256 % 16 := by
  show (w.extractLsb' 8 4).toNat = _
  simp [BitVec.extractLsb'_toNat, Nat.shiftRight_eq_div_pow]

theorem val_fieldY (w : Word) : (fieldY w).val = w.toNat / 16 % 16 := by
  show (w.extractLsb' 4 4).toNat = _
  simp [BitVec.extractLsb'_toNat, Nat.shiftRight_eq_div_pow]

theorem toNat_fieldN (w : Word) : (fieldN w).toNat = w.toNat % 16 := by
  simp [fieldN, BitVec.extractLsb'_toNat]

theorem toNat_fieldKK (w : Word) : (fieldKK w).toNat = w.toNat % 256 := by
  simp [fieldKK, BitVec.extractLsb'_toNat]

theorem toNat_fieldNNN (w : Word) : (fieldNNN w).toNat = w.toNat % 4096 := by
  simp [fieldNNN, BitVec.extractLsb'_toNat]

theorem toNat_packNNN (op : Nibble) (nnn : Addr) : (packNNN op nnn).toNat = op.toNat * 4096 + nnn.toNat :=
  toNat_append_add op nnn

theorem toNat_packXKK (op : Nibble) (x : Reg) (kk : Byte) :
    (packXKK op x kk).toNat = op.toNat * 4096 + x.val * 256 + kk.toNat := by
  show (op ++ (BitVec.ofFin x : Nibble) ++ kk).toNat = _
  have hx : (BitVec.ofFin x : Nibble).toNat = x.val := rfl
  rw [toNat_append_add, toNat_append_add, hx]
  omega

theorem toNat_packXYN (op : Nibble) (x y : Reg) (n : Nibble) :
    (packXYN op x y n).toNat = op.toNat * 4096 + x.val * 256 + y.val * 16 + n.toNat := by
  show (op ++ (BitVec.ofFin x : Nibble) ++ (BitVec.ofFin y : Nibble) ++ n).toNat = _
  have hx : (BitVec.ofFin x : Nibble).toNat = x.val := rfl
  have hy : (BitVec.ofFin y : Nibble).toNat = y.val := rfl
  rw [toNat_append_add, toNat_append_add, toNat_append_add, hx, hy]
  omega

/-! ## The fields of a packed word -/

section
variable (op : Nibble) (nnn : Addr) (x y : Reg) (kk : Byte) (n : Nibble)

@[simp] theorem fieldOp_packNNN : fieldOp (packNNN op nnn) = op :=
  BitVec.eq_of_toNat_eq (by rw [toNat_fieldOp, toNat_packNNN]; omega)

@[simp] theorem fieldNNN_packNNN : fieldNNN (packNNN op nnn) = nnn :=
  BitVec.eq_of_toNat_eq (by rw [toNat_fieldNNN, toNat_packNNN]; omega)

@[simp] theorem fieldOp_packXKK : fieldOp (packXKK op x kk) = op :=
  BitVec.eq_of_toNat_eq (by rw [toNat_fieldOp, toNat_packXKK]; omega)

@[simp] theorem fieldX_packXKK : fieldX (packXKK op x kk) = x :=
  Fin.ext (by rw [val_fieldX, toNat_packXKK]; omega)

@[simp] theorem fieldKK_packXKK : fieldKK (packXKK op x kk) = kk :=
  BitVec.eq_of_toNat_eq (by rw [toNat_fieldKK, toNat_packXKK]; omega)

@[simp] theorem fieldOp_packXYN : fieldOp (packXYN op x y n) = op :=
  BitVec.eq_of_toNat_eq (by rw [toNat_fieldOp, toNat_packXYN]; omega)

@[simp] theorem fieldX_packXYN : fieldX (packXYN op x y n) = x :=
  Fin.ext (by rw [val_fieldX, toNat_packXYN]; omega)

@[simp] theorem fieldY_packXYN : fieldY (packXYN op x y n) = y :=
  Fin.ext (by rw [val_fieldY, toNat_packXYN]; omega)

@[simp] theorem fieldN_packXYN : fieldN (packXYN op x y n) = n :=
  BitVec.eq_of_toNat_eq (by rw [toNat_fieldN, toNat_packXYN]; omega)

end

/-! ## A word packed from its own fields -/

theorem packNNN_fields (w : Word) : packNNN (fieldOp w) (fieldNNN w) = w :=
  BitVec.eq_of_toNat_eq (by rw [toNat_packNNN, toNat_fieldOp, toNat_fieldNNN]; omega)

theorem packXKK_fields (w : Word) : packXKK (fieldOp w) (fieldX w) (fieldKK w) = w :=
  BitVec.eq_of_toNat_eq (by rw [toNat_packXKK, toNat_fieldOp, val_fieldX, toNat_fieldKK]; omega)

theorem packXYN_fields (w : Word) : packXYN (fieldOp w) (fieldX w) (fieldY w) (fieldN w) = w :=
  BitVec.eq_of_toNat_eq (by rw [toNat_packXYN, toNat_fieldOp, val_fieldX, val_fieldY, toNat_fieldN]; omega)

/-! ## The masks of R90 -/

/-- The mask of rows that fix the family only. -/
theorem and_F000 (w : Word) : w &&& 0xF000 = packNNN (fieldOp w) 0 := by
  apply BitVec.eq_of_getLsbD_eq
  intro i hi
  simp only [packNNN, fieldOp, BitVec.getLsbD_and, BitVec.getLsbD_append, BitVec.getLsbD_extractLsb']
  interval_cases i <;> simp

/-- The mask of rows that fix the family and the low nibble. -/
theorem and_F00F (w : Word) : w &&& 0xF00F = packXYN (fieldOp w) 0 0 (fieldN w) := by
  apply BitVec.eq_of_getLsbD_eq
  intro i hi
  simp only [packXYN, fieldOp, fieldN, BitVec.getLsbD_and, BitVec.getLsbD_append, BitVec.getLsbD_extractLsb']
  interval_cases i <;> simp

/-- The mask of rows that fix the family and the low byte. -/
theorem and_F0FF (w : Word) : w &&& 0xF0FF = packXKK (fieldOp w) 0 (fieldKK w) := by
  apply BitVec.eq_of_getLsbD_eq
  intro i hi
  simp only [packXKK, fieldOp, fieldKK, BitVec.getLsbD_and, BitVec.getLsbD_append, BitVec.getLsbD_extractLsb']
  interval_cases i <;> simp

/-! ## Bytes of a word (R51, R56) -/

theorem joinBytes_splitWord (w : Word) : joinBytes (w.extractLsb' 8 8) (w.extractLsb' 0 8) = w := by
  apply BitVec.eq_of_toNat_eq
  rw [joinBytes, toNat_append_add, BitVec.extractLsb'_toNat, BitVec.extractLsb'_toNat, Nat.shiftRight_eq_div_pow]
  omega

theorem toNat_joinBytes (hi lo : Byte) : (joinBytes hi lo).toNat = hi.toNat * 256 + lo.toNat := toNat_append_add hi lo

end Sys2Proof
end

