-- ==== Sys2Proof/Laws/Framebuffer.lean ====
section
/-! SUPPORT. The display seen pixel by pixel: what a draw does to each pixel and when it collides (60_exceptions.md R257). -/

namespace Sys2Proof.Machine

/-- Every pixel of the cleared grid is unset (R255). -/
@[simp] theorem Framebuffer.pixel_blank (r c : Nat) : Framebuffer.blank.pixel r c = false := by
  simp [Framebuffer.pixel, Framebuffer.blank]

/-- Two grids with the same pixels are the same grid. -/
theorem Framebuffer.ext_pixel {f g : Framebuffer} (h : ∀ r < 32, ∀ c < 64, f.pixel r c = g.pixel r c) : f = g := by
  apply Vector.ext
  intro r hr
  apply BitVec.eq_of_getMsbD_eq
  intro c hc
  have := h r hr c hc
  simpa [Framebuffer.pixel, hr] using this

/-- The pixel of a grid with one row replaced. -/
theorem Framebuffer.pixel_set (fb : Framebuffer) (r : Nat) (hr : r < 32) (v : BitVec 64) (row col : Nat) :
    Framebuffer.pixel (fb.set r v hr) row col = if row = r then v.getMsbD col else fb.pixel row col := by
  by_cases h : row < 32
  · by_cases e : r = row
    · subst e; simp [Framebuffer.pixel, hr]
    · simp [Framebuffer.pixel, h, e, Ne.symm e]
  · rw [if_neg (by omega)]; simp [Framebuffer.pixel, h]

/-- A placed sprite byte, bit by bit: bit 7 on column `x0`, nothing past column 63 (R257). -/
theorem getMsbD_spriteRow (x0 : Nat) (b : Byte) (col : Nat) (hc : col < 64) :
    (spriteRow x0 b).getMsbD col = (decide (x0 ≤ col ∧ col < x0 + 8) && b.getLsbD (7 - (col - x0))) := by
  unfold spriteRow
  rw [BitVec.getMsbD_ushiftRight, BitVec.getMsbD_append]
  by_cases h1 : col < x0
  · simp [h1, hc]
  · by_cases h2 : col < x0 + 8
    · have h3 : col - x0 < 8 := by omega
      simp [h1, hc, h2, h3, BitVec.getMsbD, show ¬ 8 ≤ col - x0 by omega, show x0 ≤ col by omega]
    · simp [h1, hc, h2, show ¬ col - x0 < 8 by omega]

/-- `spriteBit` of a sprite whose first byte is taken off. -/
theorem spriteBit_cons (x0 y0 : Nat) (b : Byte) (bs : List Byte) (row col : Nat) (hc : col < 64) :
    spriteBit x0 y0 (b :: bs) row col =
      if row = y0 then (spriteRow x0 b).getMsbD col else spriteBit x0 (y0 + 1) bs row col := by
  rw [getMsbD_spriteRow x0 b col hc]
  by_cases h : row = y0
  · subst h; simp [spriteBit]
  · rw [if_neg h]
    by_cases h2 : y0 ≤ row
    · have h3 : row - y0 = (row - (y0 + 1)) + 1 := by omega
      have h4 : y0 + 1 ≤ row := by omega
      simp [spriteBit, h2, h3, h4]
    · have h4 : ¬ y0 + 1 ≤ row := by omega
      simp [spriteBit, h2, h4]

/-- What a draw does to each pixel of the grid: exclusive or with the sprite's bit there (R257). -/
theorem Framebuffer.pixel_drawRows (fb : Framebuffer) (x0 y0 : Nat) (bs : List Byte) (row col : Nat) (hr : row < 32)
    (hc : col < 64) :
    (fb.drawRows x0 y0 bs).1.pixel row col = (fb.pixel row col ^^ spriteBit x0 y0 bs row col) := by
  induction bs generalizing fb y0 with
  | nil => simp [Framebuffer.drawRows, spriteBit]
  | cons b bs ih =>
    rw [Framebuffer.drawRows, spriteBit_cons x0 y0 b bs row col hc]
    split
    · rename_i h
      show Framebuffer.pixel (Framebuffer.drawRows _ x0 (y0 + 1) bs).1 row col = _
      rw [ih, Framebuffer.pixel_set]
      by_cases e : row = y0
      · subst e
        have : spriteBit x0 (row + 1) bs row col = false := by simp [spriteBit]
        simp [this, Framebuffer.pixel, h]
      · simp [e]
    · rw [ih, if_neg (by omega)]

/-- When a draw collides: some pixel of the grid was set and has a set sprite bit on it (R257). -/
theorem Framebuffer.drawRows_collides (fb : Framebuffer) (x0 y0 : Nat) (bs : List Byte) :
    (fb.drawRows x0 y0 bs).2 = true ↔
      ∃ row < 32, ∃ col < 64, fb.pixel row col = true ∧ spriteBit x0 y0 bs row col = true := by
  induction bs generalizing fb y0 with
  | nil => simp [Framebuffer.drawRows, spriteBit]
  | cons b bs ih =>
    rw [Framebuffer.drawRows]
    split
    · rename_i h
      show ((fb[y0] &&& spriteRow x0 b) != 0 || (Framebuffer.drawRows _ x0 (y0 + 1) bs).2) = true ↔ _
      rw [Bool.or_eq_true, ih]
      have here : ((fb[y0] &&& spriteRow x0 b) != 0) = true ↔
          ∃ col < 64, fb.pixel y0 col = true ∧ spriteBit x0 y0 (b :: bs) y0 col = true := by
        rw [bne_iff_ne, ne_eq]
        constructor
        · intro hne
          by_contra hno
          apply hne
          apply BitVec.eq_of_getMsbD_eq
          intro col hc
          have := fun hp => not_exists.1 hno col ⟨hc, hp⟩
          rw [spriteBit_cons x0 y0 b bs y0 col hc, if_pos rfl] at this
          simpa [Framebuffer.pixel, h] using this
        · rintro ⟨col, hc, hp, hs⟩ h0
          rw [spriteBit_cons x0 y0 b bs y0 col hc, if_pos rfl] at hs
          have := congrArg (fun v => v.getMsbD col) h0
          simp [Framebuffer.pixel, h] at hp
          simp [hp, hs] at this
      rw [here]
      constructor
      · rintro (⟨col, hc, hp⟩ | ⟨row, hr, col, hc, hp, hs⟩)
        · exact ⟨y0, h, col, hc, hp⟩
        · have e : row ≠ y0 := by
            rintro rfl
            simp [spriteBit] at hs
          rw [Framebuffer.pixel_set, if_neg e] at hp
          exact ⟨row, hr, col, hc, hp, by rwa [spriteBit_cons x0 y0 b bs row col hc, if_neg e]⟩
      · rintro ⟨row, hr, col, hc, hp, hs⟩
        by_cases e : row = y0
        · subst e; exact .inl ⟨col, hc, hp, hs⟩
        · refine .inr ⟨row, hr, col, hc, ?_, ?_⟩
          · rwa [Framebuffer.pixel_set, if_neg e]
          · rwa [spriteBit_cons x0 y0 b bs row col hc, if_neg e] at hs
    · rename_i h
      rw [ih]
      have same : ∀ row < 32, ∀ col < 64, spriteBit x0 y0 (b :: bs) row col = spriteBit x0 (y0 + 1) bs row col :=
        fun row hr col hc => by rw [spriteBit_cons x0 y0 b bs row col hc, if_neg (by omega)]
      constructor <;> rintro ⟨row, hr, col, hc, hp, hs⟩ <;> exact ⟨row, hr, col, hc, hp, by simpa [same row hr col hc] using hs⟩

end Sys2Proof.Machine
end

