-- ==== Sys2Proof/Laws/Memory.lean ====
section
/-! SUPPORT. The laws of memory: reads after writes, and the canonical form every operation keeps. -/

namespace Sys2Proof.Machine

/-! ## Addresses -/

theorem wrapAddr_lt (a : Nat) : wrapAddr a < 4096 := Nat.mod_lt _ (by decide)

@[simp] theorem wrapAddr_wrapAddr (a : Nat) : wrapAddr (wrapAddr a) = wrapAddr a := Nat.mod_mod a 4096

/-! ## One byte -/

theorem Memory.byteAt_eq_unlisted {m : Memory} {a : Nat} (h : ∀ c ∈ m, a ≠ c.1) : m.byteAt a = Memory.unlisted := by
  induction m with
  | nil => rfl
  | cons c m ih =>
    have hc := h c (by simp)
    simp only [Memory.byteAt, if_neg hc]
    exact ih fun d hd => h d (by simp [hd])

theorem Memory.mem_store {m : Memory} {a : Nat} {v : Byte} {c : Host.Cell} (h : c ∈ m.store a v) :
    c ∈ m ∨ (c = (a, v) ∧ v ≠ Memory.unlisted) := by
  induction m with
  | nil =>
    unfold Memory.store at h
    split at h <;> simp_all
  | cons d m ih =>
    unfold Memory.store at h
    split at h
    · split at h
      · exact .inl h
      · rcases List.mem_cons.1 h with rfl | h'
        · exact .inr ⟨rfl, ‹_›⟩
        · exact .inl h'
    · split at h
      · split at h
        · exact .inl (List.mem_cons_of_mem _ h)
        · rcases List.mem_cons.1 h with rfl | h'
          · subst a; exact .inr ⟨rfl, ‹_›⟩
          · exact .inl (List.mem_cons_of_mem _ h')
      · rcases List.mem_cons.1 h with rfl | h'
        · exact .inl (by simp)
        · exact (ih h').imp_left (List.mem_cons_of_mem _)

/-- Storing a byte keeps the canonical form. -/
theorem Memory.store_wf {m : Memory} {a : Nat} (v : Byte) (h : m.wf) (ha : a < 4096) : (m.store a v).wf := by
  refine ⟨?_, fun c hc => ?_⟩
  · obtain ⟨hp, -⟩ := h
    induction m with
    | nil => unfold Memory.store; split <;> simp
    | cons d m ih =>
      obtain ⟨hd, hm⟩ := List.pairwise_cons.1 hp
      unfold Memory.store
      split
      · split
        · exact hp
        · refine List.pairwise_cons.2 ⟨fun e he => ?_, hp⟩
          rcases List.mem_cons.1 he with rfl | he
          · assumption
          · exact Nat.lt_trans ‹_› (hd e he)
      · split
        · split
          · exact hm
          · exact List.pairwise_cons.2 ⟨hd, hm⟩
        · refine List.pairwise_cons.2 ⟨fun e he => ?_, ih hm⟩
          rcases Memory.mem_store he with he | ⟨rfl, -⟩
          · exact hd e he
          · show d.1 < a; omega
  · rcases Memory.mem_store hc with hc | ⟨rfl, hv⟩
    · exact h.2 c hc
    · exact ⟨ha, hv⟩

/-- Reading a stored byte, and every other byte. -/
theorem Memory.byteAt_store {m : Memory} {a : Nat} (v : Byte) (h : m.wf) (b : Nat) :
    (m.store a v).byteAt b = if b = a then v else m.byteAt b := by
  obtain ⟨hp, -⟩ := h
  induction m with
  | nil =>
    unfold Memory.store
    split <;> simp_all [Memory.byteAt]
  | cons d m ih =>
    obtain ⟨hd, hm⟩ := List.pairwise_cons.1 hp
    have below : ∀ x, x ≤ d.1 → Memory.byteAt m x = Memory.unlisted := fun x hx =>
      Memory.byteAt_eq_unlisted fun e he => by have := hd e he; omega
    unfold Memory.store
    by_cases h1 : a < d.1
    · rw [if_pos h1]
      by_cases hv : v = Memory.unlisted
      · rw [if_pos hv]
        by_cases hb : b = a
        · subst hb
          simp only [Memory.byteAt, if_neg (Nat.ne_of_lt h1), if_true]
          rw [below b (Nat.le_of_lt h1), hv]
        · rw [if_neg hb]
      · rw [if_neg hv]; simp [Memory.byteAt]
    · rw [if_neg h1]
      by_cases h2 : a = d.1
      · rw [if_pos h2]
        by_cases hv : v = Memory.unlisted
        · rw [if_pos hv]
          by_cases hb : b = a
          · rw [if_pos hb, below b (by omega), hv]
          · rw [if_neg hb]; simp only [Memory.byteAt]; rw [if_neg (by omega)]
        · rw [if_neg hv, ← h2]
          simp only [Memory.byteAt]
          by_cases hb : b = a
          · simp [hb]
          · rw [if_neg hb, if_neg hb, if_neg (by omega)]
      · rw [if_neg h2]
        simp only [Memory.byteAt]
        rw [ih hm]
        by_cases hb : b = d.1
        · rw [if_pos hb, if_neg (by omega), if_pos hb]
        · rw [if_neg hb, if_neg hb]

/-- MemWrite keeps the canonical form (20_memory.md R53). -/
theorem Memory.write_wf {m : Memory} (a : Nat) (v : Byte) (h : m.wf) : (m.write a v).wf :=
  Memory.store_wf v h (wrapAddr_lt a)

/-- MemRead after MemWrite (R52, R53). -/
theorem Memory.read_write {m : Memory} (a : Nat) (v : Byte) (h : m.wf) (b : Nat) :
    (m.write a v).read b = if wrapAddr b = wrapAddr a then v else m.read b :=
  Memory.byteAt_store v h (wrapAddr b)

@[simp] theorem Memory.read_wrapAddr (m : Memory) (a : Nat) : m.read (wrapAddr a) = m.read a := by
  simp [Memory.read]

/-- Reading through addresses that reduce to the same one. -/
theorem Memory.read_congr (m : Memory) {a b : Nat} (h : wrapAddr a = wrapAddr b) : m.read a = m.read b := by
  simp [Memory.read, h]

/-! ## Several bytes -/

/-- Writing bytes keeps the canonical form. -/
theorem Memory.writeBytes_wf {m : Memory} (a : Nat) (bs : List Byte) (h : m.wf) : (m.writeBytes a bs).wf := by
  induction bs generalizing m a with
  | nil => exact h
  | cons v bs ih => exact ih (a + 1) (Memory.write_wf a v h)

/-- Writing bytes leaves every byte outside them. -/
theorem Memory.read_writeBytes_of_ne {m : Memory} (a : Nat) (bs : List Byte) (h : m.wf) (b : Nat)
    (hb : ∀ i < bs.length, wrapAddr b ≠ wrapAddr (a + i)) : (m.writeBytes a bs).read b = m.read b := by
  induction bs generalizing m a with
  | nil => rfl
  | cons v bs ih =>
    have h0 := hb 0 (by simp)
    rw [Memory.writeBytes, ih (a + 1) (Memory.write_wf a v h), Memory.read_write a v h, if_neg (by simpa using h0)]
    intro i hi
    have := hb (i + 1) (by simp; omega)
    rwa [Nat.add_right_comm, Nat.add_assoc]

/-- Writing at most 4096 bytes puts byte `i` at address `a + i`, reduced. -/
theorem Memory.read_writeBytes {m : Memory} (a : Nat) (bs : List Byte) (h : m.wf) (hl : bs.length ≤ 4096) (i : Nat)
    (hi : i < bs.length) : (m.writeBytes a bs).read (a + i) = bs[i] := by
  induction bs generalizing m a i with
  | nil => simp at hi
  | cons v bs ih =>
    simp only [List.length_cons] at hl hi
    rw [Memory.writeBytes]
    cases i with
    | zero =>
      rw [Memory.read_writeBytes_of_ne (a + 1) bs (Memory.write_wf a v h), Memory.read_write a v h]
      · simp
      · intro j hj; simp only [wrapAddr]; omega
    | succ i =>
      have := ih (a + 1) (Memory.write_wf a v h) (by omega) i (by omega)
      simpa [Nat.add_comm, Nat.add_left_comm] using this

@[simp] theorem Memory.length_readBytes (m : Memory) (a n : Nat) : (m.readBytes a n).length = n := by
  induction n generalizing a with
  | zero => rfl
  | succ n ih => simp [Memory.readBytes, ih]

theorem Memory.getElem_readBytes (m : Memory) (a n i : Nat) (h : i < (m.readBytes a n).length) :
    (m.readBytes a n)[i] = m.read (a + i) := by
  induction n generalizing a i with
  | zero => simp [Memory.readBytes] at h
  | succ n ih =>
    cases i with
    | zero => rfl
    | succ i =>
      simp only [Memory.readBytes, List.getElem_cons_succ]
      rw [ih (a + 1) i (by simpa using h), Nat.add_right_comm, Nat.add_assoc]

/-- Reading bytes through memories that agree gives the same bytes. -/
theorem Memory.readBytes_congr {m m' : Memory} (h : ∀ a, m.read a = m'.read a) (a n : Nat) :
    m.readBytes a n = m'.readBytes a n := by
  induction n generalizing a with
  | zero => rfl
  | succ n ih => simp [Memory.readBytes, h, ih]

/-- Any list of cells gives a canonical memory. -/
theorem Memory.ofCells_wf (cells : List Host.Cell) : (Memory.ofCells cells).wf := by
  suffices ∀ m : Memory, m.wf → (cells.foldl (fun m c => m.write c.1 c.2) m).wf from this [] ⟨List.Pairwise.nil, nofun⟩
  induction cells with
  | nil => exact fun _ h => h
  | cons c cells ih => exact fun m h => ih _ (Memory.write_wf _ _ h)

end Sys2Proof.Machine
end

