-- ==== Sys2Proof/Laws/State.lean ====
section
/-! SUPPORT. One lemma per field per update: what each shared operation leaves unchanged, and the new value of a field it
writes. Proofs cite these and unfold no record update. -/

namespace Sys2Proof.Machine

/-! ## setReg -/

@[simp] theorem State.setReg_mem (s : State) (x : Reg) (v : Byte) : (s.setReg x v).mem = s.mem := rfl
@[simp] theorem State.setReg_V (s : State) (x : Reg) (v : Byte) : (s.setReg x v).V = s.V.set x v := rfl
@[simp] theorem State.setReg_I (s : State) (x : Reg) (v : Byte) : (s.setReg x v).I = s.I := rfl
@[simp] theorem State.setReg_pc (s : State) (x : Reg) (v : Byte) : (s.setReg x v).pc = s.pc := rfl
@[simp] theorem State.setReg_SP (s : State) (x : Reg) (v : Byte) : (s.setReg x v).SP = s.SP := rfl
@[simp] theorem State.setReg_stack (s : State) (x : Reg) (v : Byte) : (s.setReg x v).stack = s.stack := rfl
@[simp] theorem State.setReg_DT (s : State) (x : Reg) (v : Byte) : (s.setReg x v).DT = s.DT := rfl
@[simp] theorem State.setReg_ST (s : State) (x : Reg) (v : Byte) : (s.setReg x v).ST = s.ST := rfl
@[simp] theorem State.setReg_held (s : State) (x : Reg) (v : Byte) : (s.setReg x v).held = s.held := rfl
@[simp] theorem State.setReg_wait (s : State) (x : Reg) (v : Byte) : (s.setReg x v).wait = s.wait := rfl
@[simp] theorem State.setReg_errlog (s : State) (x : Reg) (v : Byte) : (s.setReg x v).errlog = s.errlog := rfl
@[simp] theorem State.setReg_fstep (s : State) (x : Reg) (v : Byte) : (s.setReg x v).fstep = s.fstep := rfl
@[simp] theorem State.setReg_fb (s : State) (x : Reg) (v : Byte) : (s.setReg x v).fb = s.fb := rfl
@[simp] theorem State.setReg_fontBase (s : State) (x : Reg) (v : Byte) : (s.setReg x v).fontBase = s.fontBase := rfl
@[simp] theorem State.setReg_keyEvents (s : State) (x : Reg) (v : Byte) : (s.setReg x v).keyEvents = s.keyEvents := rfl
@[simp] theorem State.setReg_draws (s : State) (x : Reg) (v : Byte) : (s.setReg x v).draws = s.draws := rfl

/-! ## setFlag -/

@[simp] theorem State.setFlag_mem (s : State) (t : Bool) : (s.setFlag t).mem = s.mem := rfl
@[simp] theorem State.setFlag_V (s : State) (t : Bool) : (s.setFlag t).V = s.V.set regF (boolToByte t) := rfl
@[simp] theorem State.setFlag_I (s : State) (t : Bool) : (s.setFlag t).I = s.I := rfl
@[simp] theorem State.setFlag_pc (s : State) (t : Bool) : (s.setFlag t).pc = s.pc := rfl
@[simp] theorem State.setFlag_SP (s : State) (t : Bool) : (s.setFlag t).SP = s.SP := rfl
@[simp] theorem State.setFlag_stack (s : State) (t : Bool) : (s.setFlag t).stack = s.stack := rfl
@[simp] theorem State.setFlag_DT (s : State) (t : Bool) : (s.setFlag t).DT = s.DT := rfl
@[simp] theorem State.setFlag_ST (s : State) (t : Bool) : (s.setFlag t).ST = s.ST := rfl
@[simp] theorem State.setFlag_held (s : State) (t : Bool) : (s.setFlag t).held = s.held := rfl
@[simp] theorem State.setFlag_wait (s : State) (t : Bool) : (s.setFlag t).wait = s.wait := rfl
@[simp] theorem State.setFlag_errlog (s : State) (t : Bool) : (s.setFlag t).errlog = s.errlog := rfl
@[simp] theorem State.setFlag_fstep (s : State) (t : Bool) : (s.setFlag t).fstep = s.fstep := rfl
@[simp] theorem State.setFlag_fb (s : State) (t : Bool) : (s.setFlag t).fb = s.fb := rfl
@[simp] theorem State.setFlag_fontBase (s : State) (t : Bool) : (s.setFlag t).fontBase = s.fontBase := rfl
@[simp] theorem State.setFlag_keyEvents (s : State) (t : Bool) : (s.setFlag t).keyEvents = s.keyEvents := rfl
@[simp] theorem State.setFlag_draws (s : State) (t : Bool) : (s.setFlag t).draws = s.draws := rfl

/-! ## setResultThenFlag -/

@[simp] theorem State.setResultThenFlag_mem (s : State) (x : Reg) (v : Byte) (t : Bool) : (s.setResultThenFlag x v t).mem = s.mem := rfl
@[simp] theorem State.setResultThenFlag_V (s : State) (x : Reg) (v : Byte) (t : Bool) : (s.setResultThenFlag x v t).V = (s.V.set x v).set regF (boolToByte t) := rfl
@[simp] theorem State.setResultThenFlag_I (s : State) (x : Reg) (v : Byte) (t : Bool) : (s.setResultThenFlag x v t).I = s.I := rfl
@[simp] theorem State.setResultThenFlag_pc (s : State) (x : Reg) (v : Byte) (t : Bool) : (s.setResultThenFlag x v t).pc = s.pc := rfl
@[simp] theorem State.setResultThenFlag_SP (s : State) (x : Reg) (v : Byte) (t : Bool) : (s.setResultThenFlag x v t).SP = s.SP := rfl
@[simp] theorem State.setResultThenFlag_stack (s : State) (x : Reg) (v : Byte) (t : Bool) : (s.setResultThenFlag x v t).stack = s.stack := rfl
@[simp] theorem State.setResultThenFlag_DT (s : State) (x : Reg) (v : Byte) (t : Bool) : (s.setResultThenFlag x v t).DT = s.DT := rfl
@[simp] theorem State.setResultThenFlag_ST (s : State) (x : Reg) (v : Byte) (t : Bool) : (s.setResultThenFlag x v t).ST = s.ST := rfl
@[simp] theorem State.setResultThenFlag_held (s : State) (x : Reg) (v : Byte) (t : Bool) : (s.setResultThenFlag x v t).held = s.held := rfl
@[simp] theorem State.setResultThenFlag_wait (s : State) (x : Reg) (v : Byte) (t : Bool) : (s.setResultThenFlag x v t).wait = s.wait := rfl
@[simp] theorem State.setResultThenFlag_errlog (s : State) (x : Reg) (v : Byte) (t : Bool) : (s.setResultThenFlag x v t).errlog = s.errlog := rfl
@[simp] theorem State.setResultThenFlag_fstep (s : State) (x : Reg) (v : Byte) (t : Bool) : (s.setResultThenFlag x v t).fstep = s.fstep := rfl
@[simp] theorem State.setResultThenFlag_fb (s : State) (x : Reg) (v : Byte) (t : Bool) : (s.setResultThenFlag x v t).fb = s.fb := rfl
@[simp] theorem State.setResultThenFlag_fontBase (s : State) (x : Reg) (v : Byte) (t : Bool) : (s.setResultThenFlag x v t).fontBase = s.fontBase := rfl
@[simp] theorem State.setResultThenFlag_keyEvents (s : State) (x : Reg) (v : Byte) (t : Bool) : (s.setResultThenFlag x v t).keyEvents = s.keyEvents := rfl
@[simp] theorem State.setResultThenFlag_draws (s : State) (x : Reg) (v : Byte) (t : Bool) : (s.setResultThenFlag x v t).draws = s.draws := rfl

/-! ## advance -/

@[simp] theorem State.advance_mem (s : State) : (s.advance).mem = s.mem := rfl
@[simp] theorem State.advance_V (s : State) : (s.advance).V = s.V := rfl
@[simp] theorem State.advance_I (s : State) : (s.advance).I = s.I := rfl
@[simp] theorem State.advance_pc (s : State) : (s.advance).pc = s.pc + 2 := rfl
@[simp] theorem State.advance_SP (s : State) : (s.advance).SP = s.SP := rfl
@[simp] theorem State.advance_stack (s : State) : (s.advance).stack = s.stack := rfl
@[simp] theorem State.advance_DT (s : State) : (s.advance).DT = s.DT := rfl
@[simp] theorem State.advance_ST (s : State) : (s.advance).ST = s.ST := rfl
@[simp] theorem State.advance_held (s : State) : (s.advance).held = s.held := rfl
@[simp] theorem State.advance_wait (s : State) : (s.advance).wait = s.wait := rfl
@[simp] theorem State.advance_errlog (s : State) : (s.advance).errlog = s.errlog := rfl
@[simp] theorem State.advance_fstep (s : State) : (s.advance).fstep = s.fstep := rfl
@[simp] theorem State.advance_fb (s : State) : (s.advance).fb = s.fb := rfl
@[simp] theorem State.advance_fontBase (s : State) : (s.advance).fontBase = s.fontBase := rfl
@[simp] theorem State.advance_keyEvents (s : State) : (s.advance).keyEvents = s.keyEvents := rfl
@[simp] theorem State.advance_draws (s : State) : (s.advance).draws = s.draws := rfl

/-! ## jump -/

@[simp] theorem State.jump_mem (s : State) (a : Word) : (s.jump a).mem = s.mem := rfl
@[simp] theorem State.jump_V (s : State) (a : Word) : (s.jump a).V = s.V := rfl
@[simp] theorem State.jump_I (s : State) (a : Word) : (s.jump a).I = s.I := rfl
@[simp] theorem State.jump_pc (s : State) (a : Word) : (s.jump a).pc = a := rfl
@[simp] theorem State.jump_SP (s : State) (a : Word) : (s.jump a).SP = s.SP := rfl
@[simp] theorem State.jump_stack (s : State) (a : Word) : (s.jump a).stack = s.stack := rfl
@[simp] theorem State.jump_DT (s : State) (a : Word) : (s.jump a).DT = s.DT := rfl
@[simp] theorem State.jump_ST (s : State) (a : Word) : (s.jump a).ST = s.ST := rfl
@[simp] theorem State.jump_held (s : State) (a : Word) : (s.jump a).held = s.held := rfl
@[simp] theorem State.jump_wait (s : State) (a : Word) : (s.jump a).wait = s.wait := rfl
@[simp] theorem State.jump_errlog (s : State) (a : Word) : (s.jump a).errlog = s.errlog := rfl
@[simp] theorem State.jump_fstep (s : State) (a : Word) : (s.jump a).fstep = s.fstep := rfl
@[simp] theorem State.jump_fb (s : State) (a : Word) : (s.jump a).fb = s.fb := rfl
@[simp] theorem State.jump_fontBase (s : State) (a : Word) : (s.jump a).fontBase = s.fontBase := rfl
@[simp] theorem State.jump_keyEvents (s : State) (a : Word) : (s.jump a).keyEvents = s.keyEvents := rfl
@[simp] theorem State.jump_draws (s : State) (a : Word) : (s.jump a).draws = s.draws := rfl

/-! ## rewind -/

@[simp] theorem State.rewind_mem (s : State) : (s.rewind).mem = s.mem := rfl
@[simp] theorem State.rewind_V (s : State) : (s.rewind).V = s.V := rfl
@[simp] theorem State.rewind_I (s : State) : (s.rewind).I = s.I := rfl
@[simp] theorem State.rewind_pc (s : State) : (s.rewind).pc = s.pc - 2 := rfl
@[simp] theorem State.rewind_SP (s : State) : (s.rewind).SP = s.SP := rfl
@[simp] theorem State.rewind_stack (s : State) : (s.rewind).stack = s.stack := rfl
@[simp] theorem State.rewind_DT (s : State) : (s.rewind).DT = s.DT := rfl
@[simp] theorem State.rewind_ST (s : State) : (s.rewind).ST = s.ST := rfl
@[simp] theorem State.rewind_held (s : State) : (s.rewind).held = s.held := rfl
@[simp] theorem State.rewind_wait (s : State) : (s.rewind).wait = s.wait := rfl
@[simp] theorem State.rewind_errlog (s : State) : (s.rewind).errlog = s.errlog := rfl
@[simp] theorem State.rewind_fstep (s : State) : (s.rewind).fstep = s.fstep := rfl
@[simp] theorem State.rewind_fb (s : State) : (s.rewind).fb = s.fb := rfl
@[simp] theorem State.rewind_fontBase (s : State) : (s.rewind).fontBase = s.fontBase := rfl
@[simp] theorem State.rewind_keyEvents (s : State) : (s.rewind).keyEvents = s.keyEvents := rfl
@[simp] theorem State.rewind_draws (s : State) : (s.rewind).draws = s.draws := rfl

/-! ## report -/

@[simp] theorem State.report_mem (s : State) (k : ReportKind) (w a : Word) : (s.report k w a).mem = s.mem := rfl
@[simp] theorem State.report_V (s : State) (k : ReportKind) (w a : Word) : (s.report k w a).V = s.V := rfl
@[simp] theorem State.report_I (s : State) (k : ReportKind) (w a : Word) : (s.report k w a).I = s.I := rfl
@[simp] theorem State.report_pc (s : State) (k : ReportKind) (w a : Word) : (s.report k w a).pc = s.pc := rfl
@[simp] theorem State.report_SP (s : State) (k : ReportKind) (w a : Word) : (s.report k w a).SP = s.SP := rfl
@[simp] theorem State.report_stack (s : State) (k : ReportKind) (w a : Word) : (s.report k w a).stack = s.stack := rfl
@[simp] theorem State.report_DT (s : State) (k : ReportKind) (w a : Word) : (s.report k w a).DT = s.DT := rfl
@[simp] theorem State.report_ST (s : State) (k : ReportKind) (w a : Word) : (s.report k w a).ST = s.ST := rfl
@[simp] theorem State.report_held (s : State) (k : ReportKind) (w a : Word) : (s.report k w a).held = s.held := rfl
@[simp] theorem State.report_wait (s : State) (k : ReportKind) (w a : Word) : (s.report k w a).wait = s.wait := rfl
@[simp] theorem State.report_errlog (s : State) (k : ReportKind) (w a : Word) : (s.report k w a).errlog = s.errlog ++ [{ kind := k, opcode := w, address := a }] := rfl
@[simp] theorem State.report_fstep (s : State) (k : ReportKind) (w a : Word) : (s.report k w a).fstep = s.fstep := rfl
@[simp] theorem State.report_fb (s : State) (k : ReportKind) (w a : Word) : (s.report k w a).fb = s.fb := rfl
@[simp] theorem State.report_fontBase (s : State) (k : ReportKind) (w a : Word) : (s.report k w a).fontBase = s.fontBase := rfl
@[simp] theorem State.report_keyEvents (s : State) (k : ReportKind) (w a : Word) : (s.report k w a).keyEvents = s.keyEvents := rfl
@[simp] theorem State.report_draws (s : State) (k : ReportKind) (w a : Word) : (s.report k w a).draws = s.draws := rfl

/-! ## decodeErrorReport -/

@[simp] theorem State.decodeErrorReport_mem (s : State) (w : Word) : (s.decodeErrorReport w).mem = s.mem := rfl
@[simp] theorem State.decodeErrorReport_V (s : State) (w : Word) : (s.decodeErrorReport w).V = s.V := rfl
@[simp] theorem State.decodeErrorReport_I (s : State) (w : Word) : (s.decodeErrorReport w).I = s.I := rfl
@[simp] theorem State.decodeErrorReport_pc (s : State) (w : Word) : (s.decodeErrorReport w).pc = s.pc := rfl
@[simp] theorem State.decodeErrorReport_SP (s : State) (w : Word) : (s.decodeErrorReport w).SP = s.SP := rfl
@[simp] theorem State.decodeErrorReport_stack (s : State) (w : Word) : (s.decodeErrorReport w).stack = s.stack := rfl
@[simp] theorem State.decodeErrorReport_DT (s : State) (w : Word) : (s.decodeErrorReport w).DT = s.DT := rfl
@[simp] theorem State.decodeErrorReport_ST (s : State) (w : Word) : (s.decodeErrorReport w).ST = s.ST := rfl
@[simp] theorem State.decodeErrorReport_held (s : State) (w : Word) : (s.decodeErrorReport w).held = s.held := rfl
@[simp] theorem State.decodeErrorReport_wait (s : State) (w : Word) : (s.decodeErrorReport w).wait = s.wait := rfl
@[simp] theorem State.decodeErrorReport_errlog (s : State) (w : Word) : (s.decodeErrorReport w).errlog = s.errlog ++ [{ kind := .decodeError, opcode := w, address := s.pc - 2 }] := rfl
@[simp] theorem State.decodeErrorReport_fstep (s : State) (w : Word) : (s.decodeErrorReport w).fstep = s.fstep := rfl
@[simp] theorem State.decodeErrorReport_fb (s : State) (w : Word) : (s.decodeErrorReport w).fb = s.fb := rfl
@[simp] theorem State.decodeErrorReport_fontBase (s : State) (w : Word) : (s.decodeErrorReport w).fontBase = s.fontBase := rfl
@[simp] theorem State.decodeErrorReport_keyEvents (s : State) (w : Word) : (s.decodeErrorReport w).keyEvents = s.keyEvents := rfl
@[simp] theorem State.decodeErrorReport_draws (s : State) (w : Word) : (s.decodeErrorReport w).draws = s.draws := rfl

/-! ## afterDraw -/

@[simp] theorem State.afterDraw_mem (s : State) : (s.afterDraw).mem = s.mem := rfl
@[simp] theorem State.afterDraw_V (s : State) : (s.afterDraw).V = s.V := rfl
@[simp] theorem State.afterDraw_I (s : State) : (s.afterDraw).I = s.I := rfl
@[simp] theorem State.afterDraw_pc (s : State) : (s.afterDraw).pc = s.pc := rfl
@[simp] theorem State.afterDraw_SP (s : State) : (s.afterDraw).SP = s.SP := rfl
@[simp] theorem State.afterDraw_stack (s : State) : (s.afterDraw).stack = s.stack := rfl
@[simp] theorem State.afterDraw_DT (s : State) : (s.afterDraw).DT = s.DT := rfl
@[simp] theorem State.afterDraw_ST (s : State) : (s.afterDraw).ST = s.ST := rfl
@[simp] theorem State.afterDraw_held (s : State) : (s.afterDraw).held = s.held := rfl
@[simp] theorem State.afterDraw_wait (s : State) : (s.afterDraw).wait = s.wait := rfl
@[simp] theorem State.afterDraw_errlog (s : State) : (s.afterDraw).errlog = s.errlog := rfl
@[simp] theorem State.afterDraw_fstep (s : State) : (s.afterDraw).fstep = s.fstep := rfl
@[simp] theorem State.afterDraw_fb (s : State) : (s.afterDraw).fb = s.fb := rfl
@[simp] theorem State.afterDraw_fontBase (s : State) : (s.afterDraw).fontBase = s.fontBase := rfl
@[simp] theorem State.afterDraw_keyEvents (s : State) : (s.afterDraw).keyEvents = s.keyEvents := rfl
@[simp] theorem State.afterDraw_draws (s : State) : (s.afterDraw).draws = s.draws + 1 := rfl

/-! ## displayClear -/

@[simp] theorem State.displayClear_mem (s : State) : (s.displayClear).mem = s.mem := rfl
@[simp] theorem State.displayClear_V (s : State) : (s.displayClear).V = s.V := rfl
@[simp] theorem State.displayClear_I (s : State) : (s.displayClear).I = s.I := rfl
@[simp] theorem State.displayClear_pc (s : State) : (s.displayClear).pc = s.pc := rfl
@[simp] theorem State.displayClear_SP (s : State) : (s.displayClear).SP = s.SP := rfl
@[simp] theorem State.displayClear_stack (s : State) : (s.displayClear).stack = s.stack := rfl
@[simp] theorem State.displayClear_DT (s : State) : (s.displayClear).DT = s.DT := rfl
@[simp] theorem State.displayClear_ST (s : State) : (s.displayClear).ST = s.ST := rfl
@[simp] theorem State.displayClear_held (s : State) : (s.displayClear).held = s.held := rfl
@[simp] theorem State.displayClear_wait (s : State) : (s.displayClear).wait = s.wait := rfl
@[simp] theorem State.displayClear_errlog (s : State) : (s.displayClear).errlog = s.errlog := rfl
@[simp] theorem State.displayClear_fstep (s : State) : (s.displayClear).fstep = s.fstep := rfl
@[simp] theorem State.displayClear_fb (s : State) : (s.displayClear).fb = Framebuffer.blank := rfl
@[simp] theorem State.displayClear_fontBase (s : State) : (s.displayClear).fontBase = s.fontBase := rfl
@[simp] theorem State.displayClear_keyEvents (s : State) : (s.displayClear).keyEvents = s.keyEvents := rfl
@[simp] theorem State.displayClear_draws (s : State) : (s.displayClear).draws = s.draws := rfl

/-! ## setHeld -/

@[simp] theorem State.setHeld_mem (s : State) (k : Key) (b : Bool) : (s.setHeld k b).mem = s.mem := rfl
@[simp] theorem State.setHeld_V (s : State) (k : Key) (b : Bool) : (s.setHeld k b).V = s.V := rfl
@[simp] theorem State.setHeld_I (s : State) (k : Key) (b : Bool) : (s.setHeld k b).I = s.I := rfl
@[simp] theorem State.setHeld_pc (s : State) (k : Key) (b : Bool) : (s.setHeld k b).pc = s.pc := rfl
@[simp] theorem State.setHeld_SP (s : State) (k : Key) (b : Bool) : (s.setHeld k b).SP = s.SP := rfl
@[simp] theorem State.setHeld_stack (s : State) (k : Key) (b : Bool) : (s.setHeld k b).stack = s.stack := rfl
@[simp] theorem State.setHeld_DT (s : State) (k : Key) (b : Bool) : (s.setHeld k b).DT = s.DT := rfl
@[simp] theorem State.setHeld_ST (s : State) (k : Key) (b : Bool) : (s.setHeld k b).ST = s.ST := rfl
@[simp] theorem State.setHeld_held (s : State) (k : Key) (b : Bool) : (s.setHeld k b).held = s.held.set k b := rfl
@[simp] theorem State.setHeld_wait (s : State) (k : Key) (b : Bool) : (s.setHeld k b).wait = waitAfter s.wait k s.held[k] b := rfl
@[simp] theorem State.setHeld_errlog (s : State) (k : Key) (b : Bool) : (s.setHeld k b).errlog = s.errlog := rfl
@[simp] theorem State.setHeld_fstep (s : State) (k : Key) (b : Bool) : (s.setHeld k b).fstep = s.fstep := rfl
@[simp] theorem State.setHeld_fb (s : State) (k : Key) (b : Bool) : (s.setHeld k b).fb = s.fb := rfl
@[simp] theorem State.setHeld_fontBase (s : State) (k : Key) (b : Bool) : (s.setHeld k b).fontBase = s.fontBase := rfl
@[simp] theorem State.setHeld_keyEvents (s : State) (k : Key) (b : Bool) : (s.setHeld k b).keyEvents = s.keyEvents := rfl
@[simp] theorem State.setHeld_draws (s : State) (k : Key) (b : Bool) : (s.setHeld k b).draws = s.draws := rfl

/-! ## storeAtPc -/

@[simp] theorem State.storeAtPc_mem (s : State) (w : Word) : (s.storeAtPc w).mem = s.mem.writeBytes s.pc.toNat (splitWord w) := rfl
@[simp] theorem State.storeAtPc_V (s : State) (w : Word) : (s.storeAtPc w).V = s.V := rfl
@[simp] theorem State.storeAtPc_I (s : State) (w : Word) : (s.storeAtPc w).I = s.I := rfl
@[simp] theorem State.storeAtPc_pc (s : State) (w : Word) : (s.storeAtPc w).pc = s.pc := rfl
@[simp] theorem State.storeAtPc_SP (s : State) (w : Word) : (s.storeAtPc w).SP = s.SP := rfl
@[simp] theorem State.storeAtPc_stack (s : State) (w : Word) : (s.storeAtPc w).stack = s.stack := rfl
@[simp] theorem State.storeAtPc_DT (s : State) (w : Word) : (s.storeAtPc w).DT = s.DT := rfl
@[simp] theorem State.storeAtPc_ST (s : State) (w : Word) : (s.storeAtPc w).ST = s.ST := rfl
@[simp] theorem State.storeAtPc_held (s : State) (w : Word) : (s.storeAtPc w).held = s.held := rfl
@[simp] theorem State.storeAtPc_wait (s : State) (w : Word) : (s.storeAtPc w).wait = s.wait := rfl
@[simp] theorem State.storeAtPc_errlog (s : State) (w : Word) : (s.storeAtPc w).errlog = s.errlog := rfl
@[simp] theorem State.storeAtPc_fstep (s : State) (w : Word) : (s.storeAtPc w).fstep = s.fstep := rfl
@[simp] theorem State.storeAtPc_fb (s : State) (w : Word) : (s.storeAtPc w).fb = s.fb := rfl
@[simp] theorem State.storeAtPc_fontBase (s : State) (w : Word) : (s.storeAtPc w).fontBase = s.fontBase := rfl
@[simp] theorem State.storeAtPc_keyEvents (s : State) (w : Word) : (s.storeAtPc w).keyEvents = s.keyEvents := rfl
@[simp] theorem State.storeAtPc_draws (s : State) (w : Word) : (s.storeAtPc w).draws = s.draws := rfl

/-! ## skipIf -/

@[simp] theorem State.skipIf_mem (s : State) (c : Bool) : (s.skipIf c).mem = s.mem := rfl
@[simp] theorem State.skipIf_V (s : State) (c : Bool) : (s.skipIf c).V = s.V := rfl
@[simp] theorem State.skipIf_I (s : State) (c : Bool) : (s.skipIf c).I = s.I := rfl
@[simp] theorem State.skipIf_pc (s : State) (c : Bool) : (s.skipIf c).pc = if c then s.pc + 2 else s.pc := rfl
@[simp] theorem State.skipIf_SP (s : State) (c : Bool) : (s.skipIf c).SP = s.SP := rfl
@[simp] theorem State.skipIf_stack (s : State) (c : Bool) : (s.skipIf c).stack = s.stack := rfl
@[simp] theorem State.skipIf_DT (s : State) (c : Bool) : (s.skipIf c).DT = s.DT := rfl
@[simp] theorem State.skipIf_ST (s : State) (c : Bool) : (s.skipIf c).ST = s.ST := rfl
@[simp] theorem State.skipIf_held (s : State) (c : Bool) : (s.skipIf c).held = s.held := rfl
@[simp] theorem State.skipIf_wait (s : State) (c : Bool) : (s.skipIf c).wait = s.wait := rfl
@[simp] theorem State.skipIf_errlog (s : State) (c : Bool) : (s.skipIf c).errlog = s.errlog := rfl
@[simp] theorem State.skipIf_fstep (s : State) (c : Bool) : (s.skipIf c).fstep = s.fstep := rfl
@[simp] theorem State.skipIf_fb (s : State) (c : Bool) : (s.skipIf c).fb = s.fb := rfl
@[simp] theorem State.skipIf_fontBase (s : State) (c : Bool) : (s.skipIf c).fontBase = s.fontBase := rfl
@[simp] theorem State.skipIf_keyEvents (s : State) (c : Bool) : (s.skipIf c).keyEvents = s.keyEvents := rfl
@[simp] theorem State.skipIf_draws (s : State) (c : Bool) : (s.skipIf c).draws = s.draws := rfl

/-! ## push -/

@[simp] theorem State.push_mem (s : State) (v w a : Word) : (s.push v w a).mem = s.mem := by
  unfold State.push; split <;> rfl
@[simp] theorem State.push_V (s : State) (v w a : Word) : (s.push v w a).V = s.V := by
  unfold State.push; split <;> rfl
@[simp] theorem State.push_I (s : State) (v w a : Word) : (s.push v w a).I = s.I := by
  unfold State.push; split <;> rfl
@[simp] theorem State.push_pc (s : State) (v w a : Word) : (s.push v w a).pc = s.pc := by
  unfold State.push; split <;> rfl
@[simp] theorem State.push_DT (s : State) (v w a : Word) : (s.push v w a).DT = s.DT := by
  unfold State.push; split <;> rfl
@[simp] theorem State.push_ST (s : State) (v w a : Word) : (s.push v w a).ST = s.ST := by
  unfold State.push; split <;> rfl
@[simp] theorem State.push_held (s : State) (v w a : Word) : (s.push v w a).held = s.held := by
  unfold State.push; split <;> rfl
@[simp] theorem State.push_wait (s : State) (v w a : Word) : (s.push v w a).wait = s.wait := by
  unfold State.push; split <;> rfl
@[simp] theorem State.push_fstep (s : State) (v w a : Word) : (s.push v w a).fstep = s.fstep := by
  unfold State.push; split <;> rfl
@[simp] theorem State.push_fb (s : State) (v w a : Word) : (s.push v w a).fb = s.fb := by
  unfold State.push; split <;> rfl
@[simp] theorem State.push_fontBase (s : State) (v w a : Word) : (s.push v w a).fontBase = s.fontBase := by
  unfold State.push; split <;> rfl
@[simp] theorem State.push_keyEvents (s : State) (v w a : Word) : (s.push v w a).keyEvents = s.keyEvents := by
  unfold State.push; split <;> rfl
@[simp] theorem State.push_draws (s : State) (v w a : Word) : (s.push v w a).draws = s.draws := by
  unfold State.push; split <;> rfl

/-! ## pop -/

@[simp] theorem State.pop_mem (s : State) (w a : Word) : (s.pop w a).2.mem = s.mem := by
  unfold State.pop; split <;> rfl
@[simp] theorem State.pop_V (s : State) (w a : Word) : (s.pop w a).2.V = s.V := by
  unfold State.pop; split <;> rfl
@[simp] theorem State.pop_I (s : State) (w a : Word) : (s.pop w a).2.I = s.I := by
  unfold State.pop; split <;> rfl
@[simp] theorem State.pop_pc (s : State) (w a : Word) : (s.pop w a).2.pc = s.pc := by
  unfold State.pop; split <;> rfl
@[simp] theorem State.pop_stack (s : State) (w a : Word) : (s.pop w a).2.stack = s.stack := by
  unfold State.pop; split <;> rfl
@[simp] theorem State.pop_DT (s : State) (w a : Word) : (s.pop w a).2.DT = s.DT := by
  unfold State.pop; split <;> rfl
@[simp] theorem State.pop_ST (s : State) (w a : Word) : (s.pop w a).2.ST = s.ST := by
  unfold State.pop; split <;> rfl
@[simp] theorem State.pop_held (s : State) (w a : Word) : (s.pop w a).2.held = s.held := by
  unfold State.pop; split <;> rfl
@[simp] theorem State.pop_wait (s : State) (w a : Word) : (s.pop w a).2.wait = s.wait := by
  unfold State.pop; split <;> rfl
@[simp] theorem State.pop_fstep (s : State) (w a : Word) : (s.pop w a).2.fstep = s.fstep := by
  unfold State.pop; split <;> rfl
@[simp] theorem State.pop_fb (s : State) (w a : Word) : (s.pop w a).2.fb = s.fb := by
  unfold State.pop; split <;> rfl
@[simp] theorem State.pop_fontBase (s : State) (w a : Word) : (s.pop w a).2.fontBase = s.fontBase := by
  unfold State.pop; split <;> rfl
@[simp] theorem State.pop_keyEvents (s : State) (w a : Word) : (s.pop w a).2.keyEvents = s.keyEvents := by
  unfold State.pop; split <;> rfl
@[simp] theorem State.pop_draws (s : State) (w a : Word) : (s.pop w a).2.draws = s.draws := by
  unfold State.pop; split <;> rfl

/-! ## frameTick -/

@[simp] theorem State.frameTick_mem (s : State) : (s.frameTick).mem = s.mem := rfl
@[simp] theorem State.frameTick_V (s : State) : (s.frameTick).V = s.V := rfl
@[simp] theorem State.frameTick_I (s : State) : (s.frameTick).I = s.I := rfl
@[simp] theorem State.frameTick_pc (s : State) : (s.frameTick).pc = s.pc := rfl
@[simp] theorem State.frameTick_SP (s : State) : (s.frameTick).SP = s.SP := rfl
@[simp] theorem State.frameTick_stack (s : State) : (s.frameTick).stack = s.stack := rfl
@[simp] theorem State.frameTick_held (s : State) : (s.frameTick).held = s.held := rfl
@[simp] theorem State.frameTick_wait (s : State) : (s.frameTick).wait = s.wait := rfl
@[simp] theorem State.frameTick_errlog (s : State) : (s.frameTick).errlog = s.errlog := rfl
@[simp] theorem State.frameTick_fb (s : State) : (s.frameTick).fb = s.fb := rfl
@[simp] theorem State.frameTick_fontBase (s : State) : (s.frameTick).fontBase = s.fontBase := rfl
@[simp] theorem State.frameTick_keyEvents (s : State) : (s.frameTick).keyEvents = s.keyEvents := rfl
@[simp] theorem State.frameTick_draws (s : State) : (s.frameTick).draws = s.draws := rfl

/-! ## displayDraw -/

@[simp] theorem State.displayDraw_mem (s : State) (r : DrawRequest) : (s.displayDraw r).2.mem = s.mem := rfl
@[simp] theorem State.displayDraw_V (s : State) (r : DrawRequest) : (s.displayDraw r).2.V = s.V := rfl
@[simp] theorem State.displayDraw_I (s : State) (r : DrawRequest) : (s.displayDraw r).2.I = s.I := rfl
@[simp] theorem State.displayDraw_pc (s : State) (r : DrawRequest) : (s.displayDraw r).2.pc = s.pc := rfl
@[simp] theorem State.displayDraw_SP (s : State) (r : DrawRequest) : (s.displayDraw r).2.SP = s.SP := rfl
@[simp] theorem State.displayDraw_stack (s : State) (r : DrawRequest) : (s.displayDraw r).2.stack = s.stack := rfl
@[simp] theorem State.displayDraw_DT (s : State) (r : DrawRequest) : (s.displayDraw r).2.DT = s.DT := rfl
@[simp] theorem State.displayDraw_ST (s : State) (r : DrawRequest) : (s.displayDraw r).2.ST = s.ST := rfl
@[simp] theorem State.displayDraw_held (s : State) (r : DrawRequest) : (s.displayDraw r).2.held = s.held := rfl
@[simp] theorem State.displayDraw_wait (s : State) (r : DrawRequest) : (s.displayDraw r).2.wait = s.wait := rfl
@[simp] theorem State.displayDraw_errlog (s : State) (r : DrawRequest) : (s.displayDraw r).2.errlog = s.errlog := rfl
@[simp] theorem State.displayDraw_fstep (s : State) (r : DrawRequest) : (s.displayDraw r).2.fstep = s.fstep := rfl
@[simp] theorem State.displayDraw_fb (s : State) (r : DrawRequest) : (s.displayDraw r).2.fb = (s.fb.draw r.x.toNat r.y.toNat r.bytes).1 := rfl
@[simp] theorem State.displayDraw_fontBase (s : State) (r : DrawRequest) : (s.displayDraw r).2.fontBase = s.fontBase := rfl
@[simp] theorem State.displayDraw_keyEvents (s : State) (r : DrawRequest) : (s.displayDraw r).2.keyEvents = s.keyEvents := rfl
@[simp] theorem State.displayDraw_draws (s : State) (r : DrawRequest) : (s.displayDraw r).2.draws = s.draws := rfl

/-! ## Between steps: the host's events touch the keyboard and the schedule, the frame driver the timers and its count -/

@[simp] theorem State.hostEvents_mem (s : State) : s.hostEvents.mem = s.mem := rfl
@[simp] theorem State.hostEvents_V (s : State) : s.hostEvents.V = s.V := rfl
@[simp] theorem State.hostEvents_I (s : State) : s.hostEvents.I = s.I := rfl
@[simp] theorem State.hostEvents_pc (s : State) : s.hostEvents.pc = s.pc := rfl
@[simp] theorem State.hostEvents_SP (s : State) : s.hostEvents.SP = s.SP := rfl
@[simp] theorem State.hostEvents_stack (s : State) : s.hostEvents.stack = s.stack := rfl
@[simp] theorem State.hostEvents_DT (s : State) : s.hostEvents.DT = s.DT := rfl
@[simp] theorem State.hostEvents_ST (s : State) : s.hostEvents.ST = s.ST := rfl
@[simp] theorem State.hostEvents_errlog (s : State) : s.hostEvents.errlog = s.errlog := rfl
@[simp] theorem State.hostEvents_fstep (s : State) : s.hostEvents.fstep = s.fstep := rfl
@[simp] theorem State.hostEvents_fb (s : State) : s.hostEvents.fb = s.fb := rfl
@[simp] theorem State.hostEvents_fontBase (s : State) : s.hostEvents.fontBase = s.fontBase := rfl
@[simp] theorem State.hostEvents_draws (s : State) : s.hostEvents.draws = s.draws := rfl
@[simp] theorem State.hostEvents_keyEvents (s : State) : s.hostEvents.keyEvents = s.keyEvents.tail := rfl

@[simp] theorem State.betweenSteps_mem (s : State) : s.betweenSteps.mem = s.mem := rfl
@[simp] theorem State.betweenSteps_V (s : State) : s.betweenSteps.V = s.V := rfl
@[simp] theorem State.betweenSteps_I (s : State) : s.betweenSteps.I = s.I := rfl
@[simp] theorem State.betweenSteps_pc (s : State) : s.betweenSteps.pc = s.pc := rfl
@[simp] theorem State.betweenSteps_SP (s : State) : s.betweenSteps.SP = s.SP := rfl
@[simp] theorem State.betweenSteps_stack (s : State) : s.betweenSteps.stack = s.stack := rfl
@[simp] theorem State.betweenSteps_errlog (s : State) : s.betweenSteps.errlog = s.errlog := rfl
@[simp] theorem State.betweenSteps_fb (s : State) : s.betweenSteps.fb = s.fb := rfl
@[simp] theorem State.betweenSteps_fontBase (s : State) : s.betweenSteps.fontBase = s.fontBase := rfl
@[simp] theorem State.betweenSteps_draws (s : State) : s.betweenSteps.draws = s.draws := rfl
@[simp] theorem State.betweenSteps_held (s : State) : s.betweenSteps.held = s.hostEvents.held := rfl
@[simp] theorem State.betweenSteps_wait (s : State) : s.betweenSteps.wait = s.hostEvents.wait := rfl
@[simp] theorem State.betweenSteps_keyEvents (s : State) : s.betweenSteps.keyEvents = s.keyEvents.tail := rfl

end Sys2Proof.Machine
end

