-- ==== Sys2Proof/Laws/Operands.lean ====
section
/-! SUPPORT. The laws of the operand forms and flags: register reads after register writes, register blocks, digits. -/

namespace Sys2Proof.Machine

/-- Reading a register after writing one (10_state.md R22: no register is hardwired). -/
theorem State.reg_setReg (s : State) (x r : Reg) (v : Byte) : (s.setReg x v).reg r = if r = x then v else s.reg r := by
  simp only [State.reg, State.setReg, Fin.getElem_fin, Vector.getElem_set, Fin.ext_iff, eq_comm (a := r.val)]

/-- A register read depends on `V` only. -/
theorem State.reg_congr {s t : State} (h : s.V = t.V) (r : Reg) : s.reg r = t.reg r := by
  simp [State.reg, h]

/-- The result first, the flag second (40_alu.md R102): for `x = 15` the flag survives. -/
theorem State.reg_setResultThenFlag (s : State) (x r : Reg) (v : Byte) (t : Bool) :
    (s.setResultThenFlag x v t).reg r = if r = 15 then boolToByte t else if r = x then v else s.reg r := by
  simp [State.setResultThenFlag, State.setFlag, State.reg_setReg]

/-- `VF <- bool_to_u8(t)`. -/
theorem State.reg_setFlag (s : State) (r : Reg) (t : Bool) :
    (s.setFlag t).reg r = if r = 15 then boolToByte t else s.reg r := s.reg_setReg regF r _

@[simp] theorem toNat_boolToByte (t : Bool) : (boolToByte t).toNat = t.toNat := by cases t <;> rfl

@[simp] theorem toNat_addrWord (nnn : Addr) : (addrWord nnn).toNat = nnn.toNat := by
  rw [addrWord, BitVec.toNat_setWidth]; omega

@[simp] theorem toNat_byteWord (v : Byte) : (byteWord v).toNat = v.toNat := by
  rw [byteWord, BitVec.toNat_setWidth]; omega

@[simp] theorem val_lowNibble (v : Byte) : (lowNibble v).val = v.toNat % 16 := BitVec.toNat_setWidth 4 v

theorem toNat_glyphAddress (b : Addr) (d : Key) : (glyphAddress b d).toNat = b.toNat + 5 * d.val := by
  rw [glyphAddress, BitVec.toNat_ofNat, glyphSize]; omega

@[simp] theorem length_bcdDigits (v : Byte) : (bcdDigits v).length = 3 := rfl

@[simp] theorem State.length_regsUpTo (s : State) (x : Reg) : (s.regsUpTo x).length = x.val + 1 := by
  simp [State.regsUpTo]

theorem State.getElem_regsUpTo (s : State) (x : Reg) (i : Nat) (h : i < (s.regsUpTo x).length) (hi : i < 16) :
    (s.regsUpTo x)[i] = s.reg ⟨i, hi⟩ := by
  simp [State.regsUpTo, State.reg]

theorem getElem_setInside (V : Vector Byte 16) (i : Nat) (b : Byte) (r : Nat) (hr : r < 16) :
    (if h : i < 16 then V.set i b else V)[r] = if i = r then b else V[r] := by
  split
  · rw [Vector.getElem_set]
  · rw [if_neg (by omega)]

/-- A block of registers written in order (45_index_memory.md R215). -/
theorem getElem_setRegsFrom (V : Vector Byte 16) (i : Nat) (bs : List Byte) (r : Nat) (hr : r < 16) :
    (setRegsFrom V i bs)[r] = if h : i ≤ r ∧ r - i < bs.length then bs[r - i]'h.2 else V[r] := by
  induction bs generalizing V i with
  | nil => simp [setRegsFrom]
  | cons b bs ih =>
    have hlen : (b :: bs).length = bs.length + 1 := rfl
    rw [setRegsFrom, ih, getElem_setInside V i b r hr]
    by_cases hi : i = r
    · subst hi
      simp
    · by_cases hl : i < r ∧ r - (i + 1) < bs.length
      · rw [dif_pos ⟨by omega, hl.2⟩, dif_pos ⟨by omega, by omega⟩]
        have hs : r - i = (r - (i + 1)) + 1 := by omega
        simp only [hs, List.getElem_cons_succ]
      · rw [dif_neg (by omega), dif_neg (by omega), if_neg hi]

end Sys2Proof.Machine
end

