-- ==== Sys2Proof/Laws/Ops.lean ====
section
/-! SUPPORT. What each shared operation can do, said once: push, pop, the between-steps work. -/

namespace Sys2Proof.Machine

/-- Everything `Push` can do (42_control.md R150). -/
theorem State.push_cases (s : State) (v w a : Word) :
    (s.SP = 16 ∧ s.push v w a = s.report .stackOverflow w a) ∨
    (s.SP ≠ 16 ∧ s.push v w a = { s with stack := s.stack.set (stackIndex s.SP) v, SP := s.SP + 1 }) := by
  unfold State.push
  split
  · exact .inl ⟨‹_›, rfl⟩
  · exact .inr ⟨‹_›, rfl⟩

/-- Everything `Pop` can do (R151). -/
theorem State.pop_cases (s : State) (w a : Word) :
    (s.SP = 0 ∧ s.pop w a = (0x0000, s.report .stackUnderflow w a)) ∨
    (s.SP ≠ 0 ∧ s.pop w a = (s.stack[stackIndex (s.SP - 1)], { s with SP := s.SP - 1 })) := by
  unfold State.pop
  split
  · exact .inl ⟨‹_›, rfl⟩
  · exact .inr ⟨‹_›, rfl⟩

/-- The stack entry a legal pointer value selects. -/
theorem val_stackIndex (sp : Byte) : (stackIndex sp).val = sp.toNat % 16 := BitVec.toNat_setWidth 4 sp

/-- Reading the entry a pointer value selects, as an entry number. -/
theorem getElem_stackIndex (st : Vector Word 16) (sp : Byte) (k : Nat) (hk : k < 16) (h : sp.toNat % 16 = k) :
    st[stackIndex sp] = st[k] := by
  subst h
  simp only [Fin.getElem_fin, val_stackIndex]

/-- An entry of a stack with the selected one written. -/
theorem getElem_set_stackIndex (st : Vector Word 16) (sp : Byte) (v : Word) (k : Nat) (hk : k < 16) :
    (st.set (stackIndex sp) v)[k] = if k = sp.toNat % 16 then v else st[k] := by
  simp only [Vector.getElem_set, val_stackIndex, eq_comm (a := k)]

/-- Everything the frame driver can do after a step (60_exceptions.md R249). -/
theorem State.frameTick_cases (s : State) :
    (s.fstep + 1 < stepsPerFrame ∧ s.frameTick = { s with fstep := s.fstep + 1 }) ∨
    (stepsPerFrame ≤ s.fstep + 1 ∧ s.frameTick = { s with fstep := 0, DT := countdown s.DT, ST := countdown s.ST }) := by
  by_cases h : s.fstep + 1 < stepsPerFrame
  · exact .inl ⟨h, by simp only [State.frameTick, h, if_true]⟩
  · exact .inr ⟨by omega, by simp only [State.frameTick, h, if_false]⟩

/-- A countdown is one less, never below 0 (R250). -/
theorem toNat_countdown (t : Byte) : (countdown t).toNat = t.toNat - 1 := by
  unfold countdown
  split
  · subst t; rfl
  · rename_i h
    have : t.toNat ≠ 0 := fun h0 => h (BitVec.eq_of_toNat_eq (by simpa using h0))
    rw [BitVec.toNat_sub_of_le (by rw [BitVec.le_def]; simp; omega)]
    rfl

/-- Everything the host's events can do: the events of this boundary, one after the other (R262, R263). -/
theorem State.hostEvents_cases (s : State) :
    (s.keyEvents = [] ∧ s.hostEvents = s) ∨
    (∃ es later, s.keyEvents = es :: later ∧
      s.hostEvents = { es.foldl (fun u e => u.setHeld e.key e.down) s with keyEvents := later }) := by
  cases h : s.keyEvents with
  | nil => exact .inl ⟨rfl, by simp only [State.hostEvents, h, List.headD, List.tail, List.foldl]; rw [← h]⟩
  | cons es later =>
    refine .inr ⟨es, later, rfl, ?_⟩
    have run : ∀ (es : List KeyEvent) (u : State), es.foldl (fun u e => u.setHeld e.key e.down) u =
        { u with held := (es.foldl keyboardAfter (u.held, u.wait)).1, wait := (es.foldl keyboardAfter (u.held, u.wait)).2 } := by
      intro es
      induction es with
      | nil => intro u; rfl
      | cons e es ih => intro u; rw [List.foldl_cons, ih]; rfl
    rw [run]
    simp only [State.hostEvents, h, List.headD, List.tail]

/-- After an instruction's next state, its outcome is a next state. -/
@[simp] theorem thenState_next (s : State) (f : State → State) : thenState (.next s) f = .next (f s) := rfl

/-- Moving past an instruction and asking for its address gives the old `pc` (30_encoding.md R70). -/
@[simp] theorem State.instrAddress_advance (s : State) : s.advance.instrAddress = s.pc := by
  simp [State.instrAddress]

end Sys2Proof.Machine
end

