-- ==== Sys2Proof/Laws/PerInstr.lean ====
section
/-! SUPPORT. Laws said once per constructor of `Instr`. Family EncodesToItsRow: the word of an instruction matches the
instruction's own row of 30_encoding.md R90. -/

namespace Sys2Proof.Laws.EncodesToItsRow

/-- The word of `i` matches the row of R90 that `i` belongs to. -/
def Statement (i : Instr) : Prop := ∃ r, patternTable[rowOf i]? = some r ∧ encode i &&& r.2 = r.1

theorem cls : Statement .cls := ⟨_, rfl, by decide⟩
theorem ret : Statement .ret := ⟨_, rfl, by decide⟩
theorem jp (nnn : Addr) : Statement (.jp nnn) := ⟨_, rfl, (and_F000 _).trans (by simp [encode]; rfl)⟩
theorem call (nnn : Addr) : Statement (.call nnn) := ⟨_, rfl, (and_F000 _).trans (by simp [encode]; rfl)⟩
theorem seByte (x : Reg) (kk : Byte) : Statement (.seByte x kk) := ⟨_, rfl, (and_F000 _).trans (by simp [encode]; rfl)⟩
theorem sneByte (x : Reg) (kk : Byte) : Statement (.sneByte x kk) := ⟨_, rfl, (and_F000 _).trans (by simp [encode]; rfl)⟩
theorem seReg (x : Reg) (y : Reg) : Statement (.seReg x y) := ⟨_, rfl, (and_F00F _).trans (by simp [encode]; rfl)⟩
theorem ldByte (x : Reg) (kk : Byte) : Statement (.ldByte x kk) := ⟨_, rfl, (and_F000 _).trans (by simp [encode]; rfl)⟩
theorem addByte (x : Reg) (kk : Byte) : Statement (.addByte x kk) := ⟨_, rfl, (and_F000 _).trans (by simp [encode]; rfl)⟩
theorem ldReg (x : Reg) (y : Reg) : Statement (.ldReg x y) := ⟨_, rfl, (and_F00F _).trans (by simp [encode]; rfl)⟩
theorem or (x : Reg) (y : Reg) : Statement (.or x y) := ⟨_, rfl, (and_F00F _).trans (by simp [encode]; rfl)⟩
theorem and (x : Reg) (y : Reg) : Statement (.and x y) := ⟨_, rfl, (and_F00F _).trans (by simp [encode]; rfl)⟩
theorem xor (x : Reg) (y : Reg) : Statement (.xor x y) := ⟨_, rfl, (and_F00F _).trans (by simp [encode]; rfl)⟩
theorem addReg (x : Reg) (y : Reg) : Statement (.addReg x y) := ⟨_, rfl, (and_F00F _).trans (by simp [encode]; rfl)⟩
theorem sub (x : Reg) (y : Reg) : Statement (.sub x y) := ⟨_, rfl, (and_F00F _).trans (by simp [encode]; rfl)⟩
theorem shr (x : Reg) (y : Reg) : Statement (.shr x y) := ⟨_, rfl, (and_F00F _).trans (by simp [encode]; rfl)⟩
theorem subn (x : Reg) (y : Reg) : Statement (.subn x y) := ⟨_, rfl, (and_F00F _).trans (by simp [encode]; rfl)⟩
theorem shl (x : Reg) (y : Reg) : Statement (.shl x y) := ⟨_, rfl, (and_F00F _).trans (by simp [encode]; rfl)⟩
theorem sneReg (x : Reg) (y : Reg) : Statement (.sneReg x y) := ⟨_, rfl, (and_F00F _).trans (by simp [encode]; rfl)⟩
theorem ldI (nnn : Addr) : Statement (.ldI nnn) := ⟨_, rfl, (and_F000 _).trans (by simp [encode]; rfl)⟩
theorem jpV0 (nnn : Addr) : Statement (.jpV0 nnn) := ⟨_, rfl, (and_F000 _).trans (by simp [encode]; rfl)⟩
theorem rnd (x : Reg) (kk : Byte) : Statement (.rnd x kk) := ⟨_, rfl, (and_F000 _).trans (by simp [encode]; rfl)⟩
theorem drw (x : Reg) (y : Reg) (n : Nibble) : Statement (.drw x y n) := ⟨_, rfl, (and_F000 _).trans (by simp [encode]; rfl)⟩
theorem skp (x : Reg) : Statement (.skp x) := ⟨_, rfl, (and_F0FF _).trans (by simp [encode]; rfl)⟩
theorem sknp (x : Reg) : Statement (.sknp x) := ⟨_, rfl, (and_F0FF _).trans (by simp [encode]; rfl)⟩
theorem ldVxDT (x : Reg) : Statement (.ldVxDT x) := ⟨_, rfl, (and_F0FF _).trans (by simp [encode]; rfl)⟩
theorem ldVxK (x : Reg) : Statement (.ldVxK x) := ⟨_, rfl, (and_F0FF _).trans (by simp [encode]; rfl)⟩
theorem ldDTVx (x : Reg) : Statement (.ldDTVx x) := ⟨_, rfl, (and_F0FF _).trans (by simp [encode]; rfl)⟩
theorem ldSTVx (x : Reg) : Statement (.ldSTVx x) := ⟨_, rfl, (and_F0FF _).trans (by simp [encode]; rfl)⟩
theorem addI (x : Reg) : Statement (.addI x) := ⟨_, rfl, (and_F0FF _).trans (by simp [encode]; rfl)⟩
theorem ldF (x : Reg) : Statement (.ldF x) := ⟨_, rfl, (and_F0FF _).trans (by simp [encode]; rfl)⟩
theorem ldB (x : Reg) : Statement (.ldB x) := ⟨_, rfl, (and_F0FF _).trans (by simp [encode]; rfl)⟩
theorem ldMemV (x : Reg) : Statement (.ldMemV x) := ⟨_, rfl, (and_F0FF _).trans (by simp [encode]; rfl)⟩
theorem ldVMem (x : Reg) : Statement (.ldVMem x) := ⟨_, rfl, (and_F0FF _).trans (by simp [encode]; rfl)⟩

end Sys2Proof.Laws.EncodesToItsRow
end

