-- ==== Sys2Proof/Laws/Step.lean ====
section
/-! SUPPORT. Everything one step can do, said once; claims about steps start from here. -/

namespace Sys2Proof.Machine

/-- A step that answers `s'` either ran the decoded instruction or passed over a word that decodes to none
(30_encoding.md R70, R84). -/
theorem step_cases {s s' : State} (h : step s = .next s') :
    (∃ i t, decode s.fetchWord = .ok i ∧ exec i s.advance = .next t ∧ s' = t.betweenSteps) ∨
    (∃ e, decode s.fetchWord = .error e ∧ s' = (s.advance.decodeErrorReport s.fetchWord).betweenSteps) := by
  simp only [step] at h
  split at h
  · rename_i i hi
    cases ht : exec i s.advance with
    | next t => rw [ht, thenState_next] at h; exact .inl ⟨i, t, hi, ht, (Host.Outcome.next.inj h).symm⟩
    | fault e => exact nomatch e
    | refused e => rw [ht] at h; exact nomatch h
  · rename_i e he
    exact .inr ⟨e, he, (Host.Outcome.next.inj h).symm⟩

/-! ## The words of Safety on host events -/

@[simp] theorem State.levelAfter_nil (s : State) (k : Key) : s.levelAfter [] k = s.keyHeld k := rfl

@[simp] theorem State.levelAfter_snoc (s : State) (es : List KeyEvent) (e : KeyEvent) (k : Key) :
    s.levelAfter (es ++ [e]) k = if e.key = k then e.down else s.levelAfter es k := by
  simp only [State.levelAfter, List.reverse_append, List.reverse_singleton, List.singleton_append, List.find?_cons]
  by_cases h : e.key = k
  · simp [h]
  · simp [h, beq_false_of_ne h]

theorem State.noReleaseEdge_nil (s : State) : s.noReleaseEdge [] := fun _ h => nomatch h

/-- No release edge among events and one more: none among the events, and the last is none after them. -/
theorem State.noReleaseEdge_snoc (s : State) (es : List KeyEvent) (e : KeyEvent) :
    s.noReleaseEdge (es ++ [e]) ↔ s.noReleaseEdge es ∧ s.releaseEdge es e = false := by
  constructor
  · refine fun h => ⟨fun i hi => ?_, by simpa using h es.length (by simp)⟩
    have := h i (by simp; omega)
    rwa [List.getElem_append_left hi, List.take_append_of_le_length (by omega)] at this
  · rintro ⟨h, he⟩ i hi
    by_cases hlt : i < es.length
    · rw [List.getElem_append_left hlt, List.take_append_of_le_length (by omega)]
      exact h i hlt
    · have : i = es.length := by simp at hi; omega
      subst this
      simpa using he

end Sys2Proof.Machine
end

