-- ==== Sys2Proof/Tests/Slice0.lean ====
section
/-! SUPPORT. Tests: words of 30_encoding.md and 95_test_vectors.md decoded, one step per vector of 95_test_vectors.md,
ill-formed launches refused, and for each statement with hypotheses a state that meets them. The expected values are the
spec's: the sections named are those of 95_test_vectors.md. -/

namespace Sys2Proof.Tests
open Sys2Proof.Machine

/-! ## Helpers -/

/-- What `f` reads from the next state of an outcome. -/
def after {α : Type} (o : Host.Outcome State Fault Refusal) (f : State → α) : Option α :=
  match o with
  | .next s => some (f s)
  | .fault _ => none
  | .refused _ => none

theorem next_of_after {o : Host.Outcome State Fault Refusal} (h : after o (fun _ => 0) = some 0) : ∃ t, o = .next t := by
  cases o with
  | next t => exact ⟨t, rfl⟩
  | fault e => exact nomatch e
  | refused e => exact nomatch h

/-- One step of the word `w`, placed at the `pc` of `s`. -/
def run (s : State) (w : Nat) : Host.Outcome State Fault Refusal := step (s.withFetchWord 16 w)

/-- The reset state, VF at 0xAA. -/
def s0 : State := State.reset.setReg 15 0xAA

/-- `s0` with `V0` and `V1` given. -/
def s01 (a b : Byte) : State := (s0.setReg 0 a).setReg 1 b

/-- `s0` with the stack pointer given and entry `k` holding `0x202 + k`. -/
def sSP (n : Byte) : State := { s0 with SP := n, stack := Vector.ofFn fun k => BitVec.ofNat 16 (0x202 + k.val) }

/-! ## Decoding (30_encoding.md R76 to R82; section 2.1) -/

theorem test_decode_cls : decode 0b0000000011100000 = .ok .cls := by decide
theorem test_decode_ret : decode 0b0000000011101110 = .ok .ret := by decide
theorem test_decode_jp : decode 0b0001001000110100 = .ok (.jp 0x234) := by decide
theorem test_decode_call : decode 0b0010001000010000 = .ok (.call 0x210) := by decide
theorem test_decode_seByte : decode 0b0011000001000010 = .ok (.seByte 0 0x42) := by decide
theorem test_decode_sneByte : decode 0b0100000100000101 = .ok (.sneByte 1 0x05) := by decide
theorem test_decode_seReg : decode 0b0101000100100000 = .ok (.seReg 1 2) := by decide
theorem test_decode_ldByte : decode 0b0110000000000001 = .ok (.ldByte 0 0x01) := by decide
theorem test_decode_addByte : decode 0b0111001100100000 = .ok (.addByte 3 0x20) := by decide
theorem test_decode_ldReg : decode 0b1000000100100000 = .ok (.ldReg 1 2) := by decide
theorem test_decode_or : decode 0b1000000000010001 = .ok (.or 0 1) := by decide
theorem test_decode_and : decode 0b1000000000010010 = .ok (.and 0 1) := by decide
theorem test_decode_xor : decode 0b1000000000010011 = .ok (.xor 0 1) := by decide
theorem test_decode_addReg : decode 0b1000000000010100 = .ok (.addReg 0 1) := by decide
theorem test_decode_sub : decode 0b1000000000010101 = .ok (.sub 0 1) := by decide
theorem test_decode_shr : decode 0b1000000000010110 = .ok (.shr 0 1) ∧ decode 0x80F6 = .ok (.shr 0 15) := by decide
theorem test_decode_subn : decode 0b1000000000010111 = .ok (.subn 0 1) := by decide
theorem test_decode_shl : decode 0b1000000000001110 = .ok (.shl 0 0) := by decide
theorem test_decode_sneReg : decode 0b1001101010110000 = .ok (.sneReg 10 11) := by decide
theorem test_decode_ldI : decode 0b1010001100000000 = .ok (.ldI 0x300) := by decide
theorem test_decode_jpV0 : decode 0b1011111111111111 = .ok (.jpV0 0xFFF) := by decide
theorem test_decode_rnd : decode 0b1100001100001111 = .ok (.rnd 3 0x0F) := by decide
theorem test_decode_drw : decode 0b1101101010110101 = .ok (.drw 10 11 5) := by decide
theorem test_decode_skp : decode 0b1110000010011110 = .ok (.skp 0) := by decide
theorem test_decode_sknp : decode 0b1110000010100001 = .ok (.sknp 0) := by decide
theorem test_decode_ldVxDT : decode 0b1111010100000111 = .ok (.ldVxDT 5) := by decide
theorem test_decode_ldVxK : decode 0b1111001100001010 = .ok (.ldVxK 3) := by decide
theorem test_decode_ldDTVx : decode 0b1111001000010101 = .ok (.ldDTVx 2) := by decide
theorem test_decode_ldSTVx : decode 0b1111001000011000 = .ok (.ldSTVx 2) := by decide
theorem test_decode_addI : decode 0b1111000100011110 = .ok (.addI 1) := by decide
theorem test_decode_ldF : decode 0b1111010000101001 = .ok (.ldF 4) := by decide
theorem test_decode_ldB : decode 0b1111000000110011 = .ok (.ldB 0) := by decide
theorem test_decode_ldMemV : decode 0b1111001001010101 = .ok (.ldMemV 2) := by decide
theorem test_decode_ldVMem : decode 0b1111001001100101 = .ok (.ldVMem 2) := by decide

/-! Decode errors section 2.1 lists. -/

theorem test_decode_error_family0 : decode 0x0000 = .error .unknownOpcode ∧
    decode 0x00E1 = .error .unknownOpcode ∧
    decode 0x0123 = .error .unknownOpcode := by decide
theorem test_decode_error_families5and9 : decode 0x5121 = .error .malformedNibble ∧
    decode 0x512F = .error .malformedNibble ∧
    decode 0x9AB1 = .error .malformedNibble := by decide
theorem test_decode_error_family8 : decode 0x8AB8 = .error .unknownOpcode ∧
    decode 0x8ABD = .error .unknownOpcode ∧
    decode 0x8ABF = .error .unknownOpcode := by decide
theorem test_decode_error_familyE : decode 0xE09F = .error .unknownOpcode ∧
    decode 0xE000 = .error .unknownOpcode := by decide
theorem test_decode_error_familyF : decode 0xF000 = .error .unknownOpcode ∧
    decode 0xF030 = .error .unknownOpcode ∧
    decode 0xF0FF = .error .unknownOpcode := by decide

theorem test_decodeTableWord : decodeTableWord 16 0x8014 = some (.addReg 0 1) ∧ decodeTableWord 16 0x8008 = none := by decide

/-! ## Launches refused and accepted (00_scope.md R8, 20_memory.md R50) -/

theorem test_fontBase_too_high_refused : ¬ Launch.wf { defaultLaunch with fontBase := 0x1B1 } := by decide
theorem test_cell_outside_memory_refused : ¬ Launch.wf { defaultLaunch with initMem := [(4096, 1)] } := by decide
theorem test_launch_at_the_limits_accepted : Launch.wf { defaultLaunch with fontBase := 0x1B0, initMem := [(4095, 1)] } := by
  decide
theorem test_every_operand_is_well_formed : Instr.wf (.drw 15 15 0xF) = true := by decide

/-! ## Register loads and the ALU (section 2.2) -/

theorem test_ldByte : after (run s0 0x6F05) (fun t => (t.reg 15, t.pc)) = some (0x05, 0x202) := by decide
theorem test_addByte_wraps_without_flag : after (run (s01 0x00 0) 0x70FF) (fun t => (t.reg 0, t.reg 15)) = some (0xFF, 0xAA) := by
  decide
theorem test_ldReg : after (run (s01 0x12 0x34) 0x8010) (fun t => (t.reg 0, t.reg 1)) = some (0x34, 0x34) := by decide
theorem test_or : after (run (s01 0x0F 0xF0) 0x8011) (fun t => (t.reg 0, t.reg 15)) = some (0xFF, 0xAA) := by decide
theorem test_and : after (run (s01 0x3C 0x0F) 0x8012) (fun t => (t.reg 0, t.reg 15)) = some (0x0C, 0xAA) := by decide
theorem test_xor : after (run (s01 0xFF 0x0F) 0x8013) (fun t => (t.reg 0, t.reg 15)) = some (0xF0, 0xAA) := by decide
theorem test_addReg_carry : after (run (s01 0xFF 0x01) 0x8014) (fun t => (t.reg 0, t.reg 15)) = some (0x00, 0x01) := by decide
theorem test_addReg_flag_survives : after (run (s0.setReg 15 0x80) 0x8FF4) (fun t => t.reg 15) = some 0x01 := by decide
theorem test_sub_borrow : after (run (s01 0x03 0x05) 0x8015) (fun t => (t.reg 0, t.reg 15)) = some (0xFE, 0x00) := by decide
theorem test_sub_equal : after (run (s01 0x05 0x05) 0x8015) (fun t => (t.reg 0, t.reg 15)) = some (0x00, 0x01) := by decide
theorem test_shr : after (run (s01 0x05 0xF0) 0x8016) (fun t => (t.reg 0, t.reg 15)) = some (0x02, 0x01) := by decide
theorem test_shr_flag_survives : after (run (s0.setReg 15 0x03) 0x8F06) (fun t => t.reg 15) = some 0x01 := by decide
theorem test_subn : after (run (s01 0x03 0x05) 0x8017) (fun t => (t.reg 0, t.reg 15)) = some (0x02, 0x01) := by decide
theorem test_subn_borrow : after (run (s01 0x05 0x03) 0x8017) (fun t => (t.reg 0, t.reg 15)) = some (0xFE, 0x00) := by decide
theorem test_shl : after (run (s01 0x81 0) 0x800E) (fun t => (t.reg 0, t.reg 15)) = some (0x02, 0x01) := by decide
theorem test_shl_no_bit : after (run (s01 0x7F 0) 0x800E) (fun t => (t.reg 0, t.reg 15)) = some (0xFE, 0x00) := by decide

/-! ## Skips (section 2.3) -/

theorem test_seByte_wraps : after (run { s0 with pc := 0xFFFE } 0x3000) (fun t => t.pc) = some 0x0002 := by decide
theorem test_seByte_not_taken : after (run (s01 0x41 0) 0x3042) (fun t => t.pc) = some 0x202 := by decide
theorem test_sneByte : after (run (s01 0x00 0) 0x4042) (fun t => t.pc) = some 0x204 := by decide
theorem test_seReg : after (run (s01 7 7) 0x5010) (fun t => t.pc) = some 0x204 := by decide
theorem test_sneReg : after (run (s01 1 2) 0x9010) (fun t => t.pc) = some 0x204 := by decide
theorem test_skp_low_nibble : after (run ((s01 0x15 0).setHeld 5 true) 0xE09E) (fun t => t.pc) = some 0x204 := by decide
theorem test_sknp : after (run ((s01 0x05 0).setHeld 5 true) 0xE0A1) (fun t => t.pc) = some 0x202 := by decide
theorem test_malformed_skip_is_reported :
    after (run s0 0x5011) (fun t => (t.pc, t.errlog)) = some (0x202, [⟨.decodeError, 0x5011, 0x200⟩]) := by decide

/-! ## Control and stack (section 2.4) -/

theorem test_jp_odd : after (run s0 0x1233) (fun t => t.pc) = some 0x233 := by decide
theorem test_call : after (run (sSP 15) 0x2400) (fun t => (t.stack[15], t.SP, t.pc)) = some (0x202, 16, 0x400) := by decide
theorem test_call_full :
    after (run (sSP 16) 0x2400) (fun t => (t.SP, t.pc, t.errlog, t.stack)) =
      some (16, 0x400, [⟨.stackOverflow, 0x2400, 0x200⟩], (sSP 16).stack) := by decide
theorem test_ret : after (run (sSP 16) 0x00EE) (fun t => (t.SP, t.pc)) = some (15, 0x211) := by decide
theorem test_ret_empty :
    after (run { s0 with pc := 0x400 } 0x00EE) (fun t => (t.SP, t.pc, t.errlog)) =
      some (0, 0x0000, [⟨.stackUnderflow, 0x00EE, 0x400⟩]) := by decide
theorem test_jpV0 : after (run (s01 0xFF 0) 0xBFFF) (fun t => t.pc) = some 0x10FE := by decide

/-! ## Random and display (section 2.5) -/

theorem test_rnd_consumes_a_draw : after (run s0 0xC3FF) (fun t => (t.draws, t.pc, t.reg 15)) = some (1, 0x202, 0xAA) := by decide
theorem test_drw_glyph : after (run (s01 0 0) 0xD015)
    (fun t => (t.fb.pixel 0 0, t.fb.pixel 0 4, t.fb.pixel 1 0, t.fb.pixel 1 1, t.reg 15)) =
      some (true, false, true, false, 0x00) := by decide
theorem test_drw_clips_at_the_right_edge :
    after (run ({ s01 60 0 with mem := s0.mem.write 0x300 0xFF, I := 0x300 }) 0xD011)
      (fun t => (t.fb.pixel 0 59, t.fb.pixel 0 60, t.fb.pixel 0 63, t.fb.pixel 0 0, t.fb.pixel 1 0)) =
      some (false, true, true, false, false) := by decide
theorem test_cls : after (run { s0 with fb := Vector.replicate 32 (BitVec.allOnes 64) } 0x00E0)
    (fun t => (t.fb, t.reg 15)) = some (Vector.replicate 32 0, 0xAA) := by decide
theorem test_pixel_reference_clips_at_the_bottom_edge :
    Framebuffer.drawByPixel Framebuffer.blank 0 31 [0x80, 0x80] =
      (Vector.set (Vector.replicate 32 0) 31 (BitVec.twoPow 64 63), false) := by decide

/-! ## Key wait and timers (section 2.6) -/

theorem test_ldVxK_begins : after (run s0 0xF30A) (fun t => (t.wait, t.pc)) = some (.waitingForKey, 0x200) := by decide
theorem test_ldVxK_stores : after (run { s0 with wait := .keyCaptured 7 } 0xF30A) (fun t => (t.reg 3, t.wait, t.pc)) =
    some (0x07, .idle, 0x202) := by decide
theorem test_release_captures :
    (({ s0 with wait := .waitingForKey }.setHeld 7 true).setHeld 7 false).wait = .keyCaptured 7 := by decide
theorem test_first_release_wins :
    (({ s0 with wait := .keyCaptured 7 }.setHeld 2 true).setHeld 2 false).wait = .keyCaptured 7 := by decide
theorem test_ldVxDT : after (run { s0 with DT := 0x3C } 0xF507) (fun t => (t.reg 5, t.DT)) = some (0x3C, 0x3C) := by decide
theorem test_ldDTVx : after (run (s0.setReg 2 0x3C) 0xF215) (fun t => t.DT) = some 0x3C := by decide
theorem test_ldSTVx : after (run (s0.setReg 2 0x05) 0xF218) (fun t => (t.ST, t.soundActive)) = some (0x05, true) := by decide
theorem test_frame_end : after (run { s0 with DT := 1, ST := 0, fstep := 9 } 0x6001) (fun t => (t.DT, t.ST, t.fstep)) =
    some (0, 0, 0) := by decide

/-! ## Index and memory (section 2.7) -/

theorem test_ldI : after (run s0 0xA300) (fun t => t.I) = some 0x0300 := by decide
theorem test_addI : after (run ({ s01 0 2 with I := 0x0FFF }) 0xF11E) (fun t => (t.I, t.reg 15)) = some (0x1001, 0xAA) := by decide
theorem test_addI_wraps : after (run ({ s01 0 1 with I := 0xFFFF }) 0xF11E) (fun t => t.I) = some 0x0000 := by decide
theorem test_ldF : after (run ({ s0.setReg 4 0x1A with fontBase := 0x050 }) 0xF429) (fun t => t.I) = some 0x0082 := by decide
theorem test_ldB_wraps : after (run ({ s01 123 0 with I := 0x0FFF }) 0xF033)
    (fun t => (t.mem.read 0xFFF, t.mem.read 0x000, t.mem.read 0x001)) = some (1, 2, 3) := by decide
theorem test_ldMemV : after (run ({ (s01 0x11 0x22).setReg 2 0x33 with I := 0x400 }) 0xF255)
    (fun t => (t.mem.readBytes 0x400 4, t.I)) = some ([0x11, 0x22, 0x33, 0x00], 0x400) := by decide
theorem test_next_word_overwritten : after (run ({ s01 0x12 0x34 with I := 0x202 }) 0xF155) State.fetchWord = some 0x1234 := by
  decide
theorem test_ldVMem : after (run ({ s0.setReg 3 9 with I := 0x300, mem := s0.mem.writeBytes 0x300 [2, 5, 4, 7] }) 0xF265)
    (fun t => (t.reg 0, t.reg 1, t.reg 2, t.reg 3)) = some (2, 5, 4, 9) := by decide
theorem test_glyph_A_at_reset : State.reset.mem.readBytes (State.reset.fontBase.toNat + 50) 5 = [0xF0, 0x90, 0xF0, 0x90, 0x90] := by
  decide
theorem test_image_truncated (b : Byte) (img : List Byte) (h : img.length = 3584) :
    imageTruncated (b :: img) = true ∧ imageTruncated img = false := by
  simp [imageTruncated, maxImage, h]

/-! ## Witnesses: for each statement with hypotheses, a state that meets them -/

theorem reset_inv : State.reset.Inv := ⟨by decide, by decide, by decide, by decide⟩

/-- DecodedWordIsItsEncoding. -/
theorem witness_decoded_word : decode 0xFF65 = .ok (.ldVMem 15) := by decide
/-- WordIsTheInstructionOfTheRowItMatches: the first and the last row. -/
theorem witness_rows : patternTable[0]? = some (0x00E0, 0xFFFF) ∧ patternTable[33]? = some (0xF065, 0xF0FF) := by decide
/-- SourceWordsDecode: both clauses with a premise. -/
theorem witness_source_fields : fieldOp 0x6FFF = 0x6 ∧ fieldOp 0x8FF4 = 0x8 ∧ fieldN 0x8FF4 = 0x4 := by decide
/-- StepRunsTheDecodedInstruction. -/
theorem witness_step_decodes : decode (s0.withFetchWord 16 0x8014).fetchWord = .ok (.addReg 0 1) := by decide
/-- DecodeErrorIsReportedAndPassedOver. -/
theorem witness_step_decode_error : decode (s0.withFetchWord 16 0x5011).fetchWord = .error .malformedNibble := by decide
/-- StepKeepsTheInvariant and StepReportsAtMostOnceAndTruly: a CALL on a full stack. -/
theorem witness_step_inv : ((sSP 16).withFetchWord 16 0x2400).Inv ∧ ∃ t, step ((sSP 16).withFetchWord 16 0x2400) = .next t :=
  ⟨⟨by decide, by decide, by decide, by decide⟩, next_of_after (by decide)⟩
/-- LaunchMeetsTheInvariant, LaunchMemoryIsImageGlyphsAndInitMem: FONT_BASE at its limit, an image of two bytes; an image
index, the last glyph byte, and the addresses on both sides of the glyphs and of the image. -/
theorem witness_launch :
    Launch.wf { defaultLaunch with fontBase := 0x1B0, initMem := [(0x1AF, 7)], image := [0x60, 0x01] } ∧
    (1 < [0x60, 0x01].length ∧ 1 < 3584) ∧ ((15 : Nat) < 16 ∧ (4 : Nat) < 5) ∧
    (∀ a ∈ [0x1AF, 0x202, 0xFFF], a < 4096 ∧ ¬ (0x1B0 ≤ a ∧ a < 0x1B0 + 80) ∧ ¬ (0x200 ≤ a ∧ a < 0x200 + 2)) := by decide
/-- MemoryReadsTheLastWrite, NextFetchSeesTheStoredBytes, BcdStoresThreeDigits, RegistersAreStoredInclusively: canonical
memory; and an address outside the bytes stored across the wrap. -/
theorem witness_memory : s0.mem.wf ∧ (∀ j < 3, 0x002 % 4096 ≠ (0x0FFF + j) % 4096) ∧
    (∀ j ≤ (15 : Nat), 0x00F % 4096 ≠ (0xFFFF + j) % 4096) := by decide
/-- NextFetchSeesTheStoredBytes: stores that reach the next word, and the high and the low byte of a fetch at the wrap. -/
theorem witness_next_fetch :
    decode (s0.withFetchWord 16 0xFF55).fetchWord = .ok (.ldMemV 15) ∧ (s0.withFetchWord 16 0xFF55).mem.wf ∧
    decode (s0.withFetchWord 16 0xF033).fetchWord = .ok (.ldB 0) ∧ (s0.withFetchWord 16 0xF033).mem.wf ∧
    (0x1FFF : Word).toNat % 4096 = 0x0FFF % 4096 ∧ ((0x0FFF : Word).toNat + 1) % 4096 = (0x0FFF + 1) % 4096 := by decide
/-- ComparisonSkipsMovePcOnly: the clause on malformed words. -/
theorem witness_malformed : (0xF : Nibble) ≠ 0x0 ∧ (0x1 : Nibble) ≠ 0x0 := by decide
/-- KeySkipsTestTheHeldFlag: register values below and above 0x0F. -/
theorem witness_key_number : ((s01 0x1F 0).reg 0).toNat % 16 = (15 : Key).val ∧ ((s01 0x00 0).reg 0).toNat % 16 = (0 : Key).val := by
  decide
/-- CallPushesTheReturnAddress, CallOnAFullStackReportsAndJumps: the last pointer with room and the full stack. -/
theorem witness_call : (sSP 15).SP.toNat < 16 ∧ (sSP 16).SP = 16 := by decide
/-- RetTakesTheTopEntry, RetOnAnEmptyStackReportsAndGoesToZero, PopTakesTheTopOrReports: one entry, all entries, none. -/
theorem witness_ret : (0 < (sSP 1).SP.toNat ∧ 0 + 1 = (sSP 1).SP.toNat) ∧
    (0 < (sSP 16).SP.toNat ∧ (sSP 16).SP.toNat ≤ 16 ∧ 15 + 1 = (sSP 16).SP.toNat) ∧ (sSP 0).SP = 0 := by decide
/-- RetAfterCallReturnsBehindTheCall: the state after a CALL is one with that stack. -/
theorem witness_call_then_ret : after (exec (.call 0x400) (sSP 15))
    (fun t => decide ((t.setReg 3 1).SP = t.SP ∧ (t.setReg 3 1).stack = t.stack)) = some true := by decide
/-- PopsReturnThePushesInReverse: sixteen values on an empty stack. -/
theorem witness_pushes : (sSP 0).SP.toNat + (List.replicate 16 (0x0202 : Word)).length ≤ 16 := by decide
/-- DrwXorsTheSpriteAndReportsCollision: both cases, a draw over a set pixel and one over none. -/
theorem witness_collision :
    after (exec (.drw 0 1 5) { s01 0 0 with fb := Vector.replicate 32 (BitVec.allOnes 64) })
      (fun t => (t.fb.pixel 0 0, t.reg 15)) = some (false, 1) ∧
    after (exec (.drw 0 1 5) (s01 0 0)) (fun t => t.reg 15) = some 0 := by decide
/-- DrawingTwiceRestoresTheScreen: registers other than VF, and a clear screen. -/
theorem witness_draw_twice : (0 : Reg) ≠ 15 ∧ (14 : Reg) ≠ 15 ∧
    ∀ row col, (s01 0 0).spriteOn 0 1 5 row col = true → (s01 0 0).fb.pixel row col = false :=
  ⟨by decide, by decide, fun row col _ => by simp [s01, s0, State.reset, State.launch, State.setReg, Framebuffer.blank, Framebuffer.pixel]⟩
/-- KeyWaitStoresOrRewinds: the three statuses. -/
theorem witness_key_wait : { s0 with wait := KeyWait.keyCaptured 15 }.wait = .keyCaptured 15 ∧ s0.wait = .idle ∧
    { s0 with wait := KeyWait.waitingForKey }.wait = .waitingForKey := by decide
/-- ReleaseEdgeWhileWaitingCaptures: a release edge while waiting, and three events that are none. -/
theorem witness_release :
    let w := { s0.setHeld 7 true with wait := KeyWait.waitingForKey }
    (w.keyHeld 7 = true ∧ false = false ∧ w.wait = .waitingForKey) ∧
    ¬ (w.keyHeld 7 = true ∧ true = false ∧ w.wait = .waitingForKey) ∧
    ¬ (w.keyHeld 2 = true ∧ false = false ∧ w.wait = .waitingForKey) ∧
    ¬ (s0.keyHeld 7 = true ∧ false = false ∧ s0.wait = .waitingForKey) := by decide
/-- OnlyKeyWaitAndReleasesTouchTheStatus: LD Vx, K answers a next state, an event changes the status, another instruction. -/
theorem witness_status : (∃ t, exec (.ldVxK 3) s0 = .next t) ∧
    ({ s0.setHeld 7 true with wait := KeyWait.waitingForKey }.setHeld 7 false).wait ≠ .waitingForKey ∧
    ∀ x, Instr.cls ≠ .ldVxK x := ⟨next_of_after (by decide), by decide, nofun⟩
/-- KeyWaitHoldsUntilARelease: a wait in which a key is pressed. -/
theorem witness_key_wait_holds :
    let s := { s0.withFetchWord 16 0xF30A with keyEvents := [[⟨3, true⟩], []] }
    decode s.fetchWord = .ok (.ldVxK 3) ∧ (∀ k, s.wait ≠ .keyCaptured k) ∧
    ∀ es ∈ s.keyEvents.take 2, ∀ e ∈ es, e.down = true := by decide
/-- ReleaseEndsTheKeyWait: a press, a repeated level and two releases in one boundary, from both statuses before the capture. -/
theorem witness_release_ends :
    let s : State := { (s0.withFetchWord 16 0xF30A).setHeld 7 true with
      keyEvents := [[⟨3, true⟩, ⟨5, false⟩] ++ ⟨7, false⟩ :: [⟨3, false⟩], [⟨2, true⟩]] }
    decode s.fetchWord = .ok (.ldVxK 3) ∧ s.noReleaseEdge [⟨3, true⟩, ⟨5, false⟩] ∧ s.levelAfter [⟨3, true⟩, ⟨5, false⟩] 7 = true ∧
    s.wait = .idle ∧ ∀ j, { s with wait := .waitingForKey }.wait ≠ .keyCaptured j := by decide
/-- HeldFlagIsTheLastEvent. -/
theorem witness_events : { s0 with keyEvents := [[⟨7, true⟩, ⟨7, false⟩]] }.keyEvents = [⟨7, true⟩, ⟨7, false⟩] :: [] := by decide
/-- FirstReleaseEdgeOfABoundaryIsCaptured: outside a wait; in a wait no release edge; a key pressed and let go in one boundary. -/
theorem witness_first_release_edge :
    let w : State := { s0 with wait := .waitingForKey }
    s0.wait ≠ .waitingForKey ∧ (w.wait = .waitingForKey ∧ w.noReleaseEdge [⟨7, true⟩, ⟨2, false⟩]) ∧
    w.noReleaseEdge [⟨7, true⟩] ∧ w.releaseEdge [⟨7, true⟩] ⟨7, false⟩ = true := by decide
/-- TimersCountDownAtFrameEndOnly: the last step of a frame and the first. -/
theorem witness_frame :
    let s := s0.withFetchWord 16 0x6001
    (s.fstep < 10 ∧ s.fstep ≠ 9 ∧ decode s.fetchWord = .ok (.ldByte 0 1)) ∧
    ({ s with fstep := 9 }.fstep < 10 ∧ decode { s with fstep := 9 }.fetchWord = .ok (.ldByte 0 1)) := by decide
/-- TimersCountDownAtFrameEndOnly: a decode error as the last step of a frame. -/
theorem witness_frame_decode_error :
    let s := { s0.withFetchWord 16 0x0000 with fstep := 9 }
    s.fstep < 10 ∧ s.fstep = 9 ∧ decode s.fetchWord = .error .unknownOpcode := by decide
theorem witness_frame_exec : ∃ t, exec (.ldByte 0 1) { s0 with pc := s0.pc + 2 } = .next t := ⟨_, rfl⟩
/-- DelayTimerFallsOncePerFrame: a step that executes no LD DT, Vx. -/
theorem witness_steps : s0.fstep < 10 ∧ ∃ t, StepsToInWithout (fun i => ∃ x, i = .ldDTVx x) 1 (s0.withFetchWord 16 0x6001) t := by
  refine ⟨by decide, ?_⟩
  obtain ⟨t, ht⟩ := next_of_after (o := step (s0.withFetchWord 16 0x6001)) (by decide)
  have hn : (s0.withFetchWord 16 0x6001).nextInstr = some (.ldByte 0 1) := by decide
  refine ⟨t, .more (fun i hi => ?_) ht (.done t)⟩
  rw [hn] at hi
  cases hi
  rintro ⟨x, hx⟩
  cases hx
/-- RegistersChangeOnlyByTheirWriters, PartsChangeOnlyByTheirWriters: an instruction that changes a register. -/
theorem witness_change : after (exec (.ldByte 1 5) s0) (fun t => decide (t.reg 1 ≠ s0.reg 1)) = some true := by decide
/-- ErrorLogAndSoundTimerAreNeverRead. -/
theorem witness_same_but_outputs : SameButOutputs s0 { s0 with ST := 5, errlog := [⟨.decodeError, 0, 0⟩] } := by
  unfold SameButOutputs; rfl
/-- StaleStackEntriesAreNeverObserved: one entry held, another differing above it. -/
theorem witness_stale : (sSP 1).SP.toNat ≤ 16 ∧ SameButStale (sSP 1) { sSP 1 with stack := (sSP 1).stack.set 1 0xFFFF } := by
  refine ⟨by decide, rfl, fun k hk hlt => ?_⟩
  have h1 : (sSP 1).SP.toNat = 1 := by decide
  have h0 : 1 ≠ k := by omega
  show ((sSP 1).stack.set 1 0xFFFF)[k] = (sSP 1).stack[k]
  exact Vector.getElem_set_ne (by decide) hk h0
/-- FetchIgnoresTheTopBitsOfPc. -/
theorem witness_pc_above_memory : (0x1200 : Word).toNat % 4096 = s0.pc.toNat % 4096 := by decide

end Sys2Proof.Tests
end

section
/-! PROOF. The statements on the encoding (30_encoding.md R76, R90). The idea for R90: the row a word decodes to depends only
on the bits its family looks at, which are the bits of the row's mask; so a word that matches a row decodes to the row its
pattern decodes to. The other direction goes through the word of the decoded instruction. -/

namespace Sys2Proof

/-! ## The decoder, family by family (R75) -/

theorem nibble_cases (op : Nibble) : op = 0x0 ∨ op = 0x1 ∨ op = 0x2 ∨ op = 0x3 ∨ op = 0x4 ∨ op = 0x5 ∨ op = 0x6 ∨
    op = 0x7 ∨ op = 0x8 ∨ op = 0x9 ∨ op = 0xA ∨ op = 0xB ∨ op = 0xC ∨ op = 0xD ∨ op = 0xE ∨ op = 0xF := by
  revert op; decide

section
variable {w : Word}

theorem decode_family0 (h : fieldOp w = 0x0) : decode w = decode0 w := by simp [decode, h]
theorem decode_family1 (h : fieldOp w = 0x1) : decode w = .ok (.jp (fieldNNN w)) := by simp [decode, h]
theorem decode_family2 (h : fieldOp w = 0x2) : decode w = .ok (.call (fieldNNN w)) := by simp [decode, h]
theorem decode_family3 (h : fieldOp w = 0x3) : decode w = .ok (.seByte (fieldX w) (fieldKK w)) := by simp [decode, h]
theorem decode_family4 (h : fieldOp w = 0x4) : decode w = .ok (.sneByte (fieldX w) (fieldKK w)) := by simp [decode, h]
theorem decode_family5 (h : fieldOp w = 0x5) : decode w = decodeZeroNibble w (.seReg (fieldX w) (fieldY w)) := by
  simp [decode, h]
theorem decode_family6 (h : fieldOp w = 0x6) : decode w = .ok (.ldByte (fieldX w) (fieldKK w)) := by simp [decode, h]
theorem decode_family7 (h : fieldOp w = 0x7) : decode w = .ok (.addByte (fieldX w) (fieldKK w)) := by simp [decode, h]
theorem decode_family8 (h : fieldOp w = 0x8) : decode w = decode8 w := by simp [decode, h]
theorem decode_family9 (h : fieldOp w = 0x9) : decode w = decodeZeroNibble w (.sneReg (fieldX w) (fieldY w)) := by
  simp [decode, h]
theorem decode_familyA (h : fieldOp w = 0xA) : decode w = .ok (.ldI (fieldNNN w)) := by simp [decode, h]
theorem decode_familyB (h : fieldOp w = 0xB) : decode w = .ok (.jpV0 (fieldNNN w)) := by simp [decode, h]
theorem decode_familyC (h : fieldOp w = 0xC) : decode w = .ok (.rnd (fieldX w) (fieldKK w)) := by simp [decode, h]
theorem decode_familyD (h : fieldOp w = 0xD) : decode w = .ok (.drw (fieldX w) (fieldY w) (fieldN w)) := by
  simp [decode, h]
theorem decode_familyE (h : fieldOp w = 0xE) : decode w = decodeE w := by simp [decode, h]
theorem decode_familyF (h : fieldOp w = 0xF) : decode w = decodeF w := by simp [decode, h]

end

/-! ## The word of a decoded instruction

A word is packed from its operand fields and the values of its fixed fields. -/

theorem packNNN_of_fieldOp {w : Word} {op : Nibble} (hop : fieldOp w = op) : packNNN op (fieldNNN w) = w := by
  rw [← hop, packNNN_fields]

theorem packXKK_of_fields {w : Word} {op : Nibble} {kk : Byte} (hop : fieldOp w = op) (hk : fieldKK w = kk) :
    packXKK op (fieldX w) kk = w := by
  rw [← hop, ← hk, packXKK_fields]

theorem packXYN_of_fields {w : Word} {op n : Nibble} (hop : fieldOp w = op) (hn : fieldN w = n) :
    packXYN op (fieldX w) (fieldY w) n = w := by
  rw [← hop, ← hn, packXYN_fields]

theorem encode_of_decode0 {w : Word} {i : Instr} (h : decode0 w = .ok i) : encode i = w := by
  unfold decode0 at h
  split_ifs at h with hw hw <;> cases h <;> exact hw.symm

theorem encode_of_decodeZeroNibble {w : Word} {i j : Instr} {op : Nibble} (hop : fieldOp w = op)
    (hj : encode j = packXYN op (fieldX w) (fieldY w) 0x0) (h : decodeZeroNibble w j = .ok i) : encode i = w := by
  unfold decodeZeroNibble at h
  split_ifs at h with hn
  cases h
  rw [hj, packXYN_of_fields hop hn]

theorem encode_of_decode8 {w : Word} {i : Instr} (hop : fieldOp w = 0x8) (h : decode8 w = .ok i) : encode i = w := by
  simp only [decode8] at h
  split_ifs at h with hn hn hn hn hn hn hn hn hn <;> cases h <;> exact packXYN_of_fields hop hn

theorem encode_of_decodeE {w : Word} {i : Instr} (hop : fieldOp w = 0xE) (h : decodeE w = .ok i) : encode i = w := by
  simp only [decodeE] at h
  split_ifs at h with hk hk <;> cases h <;> exact packXKK_of_fields hop hk

theorem encode_of_decodeF {w : Word} {i : Instr} (hop : fieldOp w = 0xF) (h : decodeF w = .ok i) : encode i = w := by
  simp only [decodeF] at h
  split_ifs at h with hk hk hk hk hk hk hk hk hk <;> cases h <;> exact packXKK_of_fields hop hk

/-- A word is the word of the instruction it decodes to (R89). -/
theorem encode_of_decode {w : Word} {i : Instr} (h : decode w = .ok i) : encode i = w := by
  rcases nibble_cases (fieldOp w) with h0 | h1 | h2 | h3 | h4 | h5 | h6 | h7 | h8 | h9 | hA | hB | hC | hD | hE | hF
  · rw [decode_family0 h0] at h; exact encode_of_decode0 h
  · rw [decode_family1 h1] at h; cases h; exact packNNN_of_fieldOp h1
  · rw [decode_family2 h2] at h; cases h; exact packNNN_of_fieldOp h2
  · rw [decode_family3 h3] at h; cases h; exact packXKK_of_fields h3 rfl
  · rw [decode_family4 h4] at h; cases h; exact packXKK_of_fields h4 rfl
  · rw [decode_family5 h5] at h; exact encode_of_decodeZeroNibble h5 rfl h
  · rw [decode_family6 h6] at h; cases h; exact packXKK_of_fields h6 rfl
  · rw [decode_family7 h7] at h; cases h; exact packXKK_of_fields h7 rfl
  · rw [decode_family8 h8] at h; exact encode_of_decode8 h8 h
  · rw [decode_family9 h9] at h; exact encode_of_decodeZeroNibble h9 rfl h
  · rw [decode_familyA hA] at h; cases h; exact packNNN_of_fieldOp hA
  · rw [decode_familyB hB] at h; cases h; exact packNNN_of_fieldOp hB
  · rw [decode_familyC hC] at h; cases h; exact packXKK_of_fields hC rfl
  · rw [decode_familyD hD] at h; cases h; exact packXYN_of_fields hD rfl
  · rw [decode_familyE hE] at h; exact encode_of_decodeE hE h
  · rw [decode_familyF hF] at h; exact encode_of_decodeF hF h

/-! ## The row a word decodes to -/

/-- The row of R90 of the instruction `w` decodes to, none for a decode error. -/
def rowOfWord (w : Word) : Option Nat := (decode w).toOption.map rowOf

theorem rowOfWord_eq_some_iff {w : Word} {k : Nat} : rowOfWord w = some k ↔ ∃ i, decode w = .ok i ∧ rowOf i = k := by
  unfold rowOfWord
  cases decode w <;> simp [Except.toOption]

/-- The word of every instruction matches the instruction's own row. -/
theorem encode_matches_row (i : Instr) : Laws.EncodesToItsRow.Statement i := by
  open Laws.EncodesToItsRow in
  cases i
  exacts [cls, ret, jp _, call _, seByte _ _, sneByte _ _, seReg _ _, ldByte _ _, addByte _ _, ldReg _ _, or _ _, and _ _,
    xor _ _, addReg _ _, sub _ _, shr _ _, subn _ _, shl _ _, sneReg _ _, ldI _, jpV0 _, rnd _ _, drw _ _ _, skp _, sknp _,
    ldVxDT _, ldVxK _, ldDTVx _, ldSTVx _, addI _, ldF _, ldB _, ldMemV _, ldVMem _]

/-- A word matches the row of the instruction it decodes to. -/
theorem matches_of_rowOfWord {w : Word} {k : Nat} {r : Word × Word} (hr : patternTable[k]? = some r)
    (h : rowOfWord w = some k) : w &&& r.2 = r.1 := by
  obtain ⟨i, hi, rfl⟩ := rowOfWord_eq_some_iff.1 h
  obtain ⟨q, hq, hm⟩ := encode_matches_row i
  rw [encode_of_decode hi] at hm
  rwa [Option.some.inj (hr.symm.trans hq)]

/-! ## The bits that decide the row -/

/-- The bits of a word of family `op` that select its operation (R75, R77 to R83). -/
def decodeMask (op : Nibble) : Word :=
  if op = 0x0 then 0xFFFF
  else if op = 0x5 ∨ op = 0x8 ∨ op = 0x9 then 0xF00F
  else if op = 0xE ∨ op = 0xF then 0xF0FF
  else 0xF000

theorem fieldOp_eq_of_and {w p : Word} (h : w &&& 0xF000 = p &&& 0xF000) : fieldOp w = fieldOp p := by
  simpa only [and_F000, fieldOp_packNNN] using congrArg fieldOp h

theorem fieldN_eq_of_and {w p : Word} (h : w &&& 0xF00F = p &&& 0xF00F) : fieldN w = fieldN p := by
  simpa only [and_F00F, fieldN_packXYN] using congrArg fieldN h

theorem fieldKK_eq_of_and {w p : Word} (h : w &&& 0xF0FF = p &&& 0xF0FF) : fieldKK w = fieldKK p := by
  simpa only [and_F0FF, fieldKK_packXKK] using congrArg fieldKK h

/-- Words that agree on a mask agree on every part of it. -/
theorem and_eq_of_and_eq {w p m n : Word} (h : w &&& m = p &&& m) (hmn : m &&& n = n) : w &&& n = p &&& n := by
  rw [← hmn, ← BitVec.and_assoc, h, BitVec.and_assoc]

/-- Every family fixes the op nibble. -/
theorem decodeMask_and_F000 (op : Nibble) : decodeMask op &&& 0xF000 = 0xF000 := by
  unfold decodeMask
  split_ifs <;> rfl

/-! The operand fields of a word do not move its operation to another row. -/

theorem map_rowOf_decode8 {w p : Word} (h : fieldN w = fieldN p) :
    (decode8 w).toOption.map rowOf = (decode8 p).toOption.map rowOf := by
  simp only [decode8, h]
  split_ifs <;> rfl

theorem map_rowOf_decodeE {w p : Word} (h : fieldKK w = fieldKK p) :
    (decodeE w).toOption.map rowOf = (decodeE p).toOption.map rowOf := by
  simp only [decodeE, h]
  split_ifs <;> rfl

theorem map_rowOf_decodeF {w p : Word} (h : fieldKK w = fieldKK p) :
    (decodeF w).toOption.map rowOf = (decodeF p).toOption.map rowOf := by
  simp only [decodeF, h]
  split_ifs <;> rfl

theorem map_rowOf_decodeZeroNibble {w p : Word} {i j : Instr} (h : fieldN w = fieldN p) (hij : rowOf i = rowOf j) :
    (decodeZeroNibble w i).toOption.map rowOf = (decodeZeroNibble p j).toOption.map rowOf := by
  unfold decodeZeroNibble
  rw [h]
  split_ifs
  · exact congrArg some hij
  · rfl

/-- The row a word decodes to is decided by the bits its family looks at (R83: the others are operands or don't care). -/
theorem rowOfWord_eq_of_and_decodeMask {w p : Word} (h : w &&& decodeMask (fieldOp p) = p &&& decodeMask (fieldOp p)) :
    rowOfWord w = rowOfWord p := by
  have hop : fieldOp w = fieldOp p := fieldOp_eq_of_and (and_eq_of_and_eq h (decodeMask_and_F000 _))
  have hN (hf : decodeMask (fieldOp p) = 0xF00F) : fieldN w = fieldN p := fieldN_eq_of_and (hf ▸ h)
  have hKK (hf : decodeMask (fieldOp p) = 0xF0FF) : fieldKK w = fieldKK p := fieldKK_eq_of_and (hf ▸ h)
  unfold rowOfWord
  rcases nibble_cases (fieldOp p) with h0 | h1 | h2 | h3 | h4 | h5 | h6 | h7 | h8 | h9 | hA | hB | hC | hD | hE | hF
  · have hwp : w &&& BitVec.allOnes 16 = p &&& BitVec.allOnes 16 := by rwa [h0] at h
    rw [BitVec.and_allOnes, BitVec.and_allOnes] at hwp
    rw [hwp]
  · rw [decode_family1 h1, decode_family1 (hop.trans h1)]; rfl
  · rw [decode_family2 h2, decode_family2 (hop.trans h2)]; rfl
  · rw [decode_family3 h3, decode_family3 (hop.trans h3)]; rfl
  · rw [decode_family4 h4, decode_family4 (hop.trans h4)]; rfl
  · rw [decode_family5 h5, decode_family5 (hop.trans h5)]; exact map_rowOf_decodeZeroNibble (hN (by rw [h5]; rfl)) rfl
  · rw [decode_family6 h6, decode_family6 (hop.trans h6)]; rfl
  · rw [decode_family7 h7, decode_family7 (hop.trans h7)]; rfl
  · rw [decode_family8 h8, decode_family8 (hop.trans h8)]; exact map_rowOf_decode8 (hN (by rw [h8]; rfl))
  · rw [decode_family9 h9, decode_family9 (hop.trans h9)]; exact map_rowOf_decodeZeroNibble (hN (by rw [h9]; rfl)) rfl
  · rw [decode_familyA hA, decode_familyA (hop.trans hA)]; rfl
  · rw [decode_familyB hB, decode_familyB (hop.trans hB)]; rfl
  · rw [decode_familyC hC, decode_familyC (hop.trans hC)]; rfl
  · rw [decode_familyD hD, decode_familyD (hop.trans hD)]; rfl
  · rw [decode_familyE hE, decode_familyE (hop.trans hE)]; exact map_rowOf_decodeE (hKK (by rw [hE]; rfl))
  · rw [decode_familyF hF, decode_familyF (hop.trans hF)]; exact map_rowOf_decodeF (hKK (by rw [hF]; rfl))

/-- Every row's mask is the bits its family looks at, and the row's pattern is a word of the row. -/
theorem patternTable_row (k : Nat) (r : Word × Word) (hr : patternTable[k]? = some r) :
    r.2 = decodeMask (fieldOp r.1) ∧ r.1 &&& r.2 = r.1 ∧ rowOfWord r.1 = some k := by
  have table : ∀ rk ∈ patternTable.zipIdx,
      rk.1.2 = decodeMask (fieldOp rk.1.1) ∧ rk.1.1 &&& rk.1.2 = rk.1.1 ∧ rowOfWord rk.1.1 = some rk.2 := by decide
  exact table (r, k) (List.mk_mem_zipIdx_iff_getElem?.2 hr)

/-- A word that matches a row decodes to an instruction of the row. -/
theorem rowOfWord_of_matches {w : Word} {k : Nat} {r : Word × Word} (hr : patternTable[k]? = some r)
    (h : w &&& r.2 = r.1) : rowOfWord w = some k := by
  obtain ⟨hmask, hself, hrow⟩ := patternTable_row k r hr
  rw [← hrow]
  apply rowOfWord_eq_of_and_decodeMask
  rw [← hmask, h, hself]

/-- Settles O3: a match fixes the bits that decide the row, and a decoded word is the word of its instruction. -/
theorem wordIsTheInstructionOfTheRowItMatches : Obligations.WordIsTheInstructionOfTheRowItMatches := by
  intro w k r hr
  rw [← rowOfWord_eq_some_iff]
  exact ⟨rowOfWord_of_matches hr, matches_of_rowOfWord hr⟩

/-! ## The encodings of the source -/

/-- Settles O5: the three words by evaluation, the two clauses by the branch their fields select. -/
theorem sourceWordsDecode : Obligations.SourceWordsDecode := by
  refine ⟨by decide, by decide, by decide, fun w hop => ?_, fun w hop hn => ?_⟩
  · exact decode_family6 hop
  · rw [decode_family8 hop]
    simp [decode8, hn]

end Sys2Proof
end

section
/-! PROOF. The statements on the register loads and the additions (40_alu.md R103 to R105, R109). Each instruction's next
state is a `setReg` or a `setResultThenFlag`, so its registers are read by the laws of those two and its frame is theirs. -/

namespace Sys2Proof

open Machine

/-! ## The words of the loads and the additions (R89, R90) -/

section
variable (x y : Reg) (kk : Byte)

theorem decode_packXKK_6 : decode (packXKK 0x6 x kk) = .ok (.ldByte x kk) := by
  rw [decode_family6 (fieldOp_packXKK ..), fieldX_packXKK, fieldKK_packXKK]

theorem decode_packXKK_7 : decode (packXKK 0x7 x kk) = .ok (.addByte x kk) := by
  rw [decode_family7 (fieldOp_packXKK ..), fieldX_packXKK, fieldKK_packXKK]

theorem decode_packXYN_8_0 : decode (packXYN 0x8 x y 0x0) = .ok (.ldReg x y) := by
  rw [decode_family8 (fieldOp_packXYN ..)]
  simp [decode8]

theorem decode_packXYN_8_4 : decode (packXYN 0x8 x y 0x4) = .ok (.addReg x y) := by
  rw [decode_family8 (fieldOp_packXYN ..)]
  simp [decode8]

/-! ## What the loads and the additions do -/

variable (s : State)

theorem exec_ldByte : exec (.ldByte x kk) s = .next (s.setReg x kk) := rfl

theorem exec_addByte : exec (.addByte x kk) s = .next (s.setReg x (s.reg x + kk)) := rfl

theorem exec_ldReg : exec (.ldReg x y) s = .next (s.setReg x (s.reg y)) := rfl

theorem exec_addReg : exec (.addReg x y) s =
    .next (s.setResultThenFlag x (s.reg x + s.reg y) (carryFlag (s.reg x) (s.reg y))) := rfl

end

/-- A register write touches the registers only. -/
theorem Machine.State.setReg_frame (s : State) (x : Reg) (v : Byte) : s.setReg x v = { s with V := (s.setReg x v).V } := rfl

/-- The result and the flag touch the registers only. -/
theorem Machine.State.setResultThenFlag_frame (s : State) (x : Reg) (v : Byte) (t : Bool) :
    s.setResultThenFlag x v t = { s with V := (s.setResultThenFlag x v t).V } := rfl

/-- The carry as a number is 1 iff the sum before truncation exceeds 255 (R109). -/
theorem toNat_boolToByte_carryFlag (a b : Byte) :
    (boolToByte (carryFlag a b)).toNat = if a.toNat + b.toNat > 255 then 1 else 0 := by
  rw [toNat_boolToByte, carryFlag]
  exact Bool.cond_decide _ 1 0

/-! ## The statements -/

/-- Settles O16: each of the three is one register write, of `kk`, of the sum or of `V[y]`. -/
theorem loadsAndImmediateAddWriteVxOnly : Obligations.LoadsAndImmediateAddWriteVxOnly := by
  intro x y kk s
  refine ⟨⟨decode_packXKK_6 x kk, _, exec_ldByte x kk s, fun r => s.reg_setReg x r _, s.setReg_frame x _⟩,
    ⟨decode_packXKK_7 x kk, _, exec_addByte x kk s, fun r => ?_, s.setReg_frame x _⟩,
    ⟨decode_packXYN_8_0 x y, _, exec_ldReg x y s, fun r => s.reg_setReg x r _, s.setReg_frame x _⟩⟩
  rw [State.reg_setReg, apply_ite BitVec.toNat, BitVec.toNat_add]

/-- Settles O18: the sum is written first and the carry second, so VF reads as the carry also for `x = 15`. -/
theorem addRegGivesSumAndCarry : Obligations.AddRegGivesSumAndCarry := by
  intro x y s
  refine ⟨decode_packXYN_8_4 x y, _, exec_addReg x y s, s.setResultThenFlag_frame x _ _, fun r => ?_⟩
  rw [State.reg_setResultThenFlag, apply_ite BitVec.toNat, apply_ite BitVec.toNat, toNat_boolToByte_carryFlag,
    BitVec.toNat_add]

end Sys2Proof
end

section
/-! PROOF. The statement on the comparison skips (41_skip.md R130 to R133). The four share the skip mechanism of R136: each
one's next state is a `skipIf`, and what is left of each is that its Boolean test says the comparison of the values. -/

namespace Sys2Proof

open Machine

/-! ## The skip mechanism (R136) -/

/-- A skip touches `pc` only. -/
theorem Machine.State.skipIf_frame (s : State) (c : Bool) : s.skipIf c = { s with pc := (s.skipIf c).pc } := rfl

/-- A skip on a test `c` that says `P` moves `pc` a further 2 on, modulo 65536, iff `P`. -/
theorem Machine.State.toNat_pc_skipIf (s : State) {c : Bool} {P : Prop} [Decidable P] (hc : c = true ↔ P) :
    (s.skipIf c).pc.toNat = if P then (s.pc.toNat + 2) % 65536 else s.pc.toNat := by
  rw [State.skipIf_pc, apply_ite BitVec.toNat, BitVec.toNat_add]
  exact if_congr hc rfl rfl

/-- What an instruction that is a skip on `P` does. -/
theorem exec_skip {i : Instr} {s : State} {c : Bool} {P : Prop} [Decidable P] (hi : exec i s = .next (s.skipIf c))
    (hc : c = true ↔ P) : ∃ t, exec i s = .next t ∧ t = { s with pc := t.pc } ∧
      t.pc.toNat = if P then (s.pc.toNat + 2) % 65536 else s.pc.toNat :=
  ⟨_, hi, s.skipIf_frame c, s.toNat_pc_skipIf hc⟩

/-! ## The words of the comparison skips (R82, R89, R90) -/

section
variable (x y : Reg) (kk : Byte)

theorem decode_packXKK_3 : decode (packXKK 0x3 x kk) = .ok (.seByte x kk) := by
  rw [decode_family3 (fieldOp_packXKK ..), fieldX_packXKK, fieldKK_packXKK]

theorem decode_packXKK_4 : decode (packXKK 0x4 x kk) = .ok (.sneByte x kk) := by
  rw [decode_family4 (fieldOp_packXKK ..), fieldX_packXKK, fieldKK_packXKK]

theorem decode_packXYN_5 (n : Nibble) :
    decode (packXYN 0x5 x y n) = if n = 0x0 then .ok (.seReg x y) else .error .malformedNibble := by
  rw [decode_family5 (fieldOp_packXYN ..), decodeZeroNibble, fieldX_packXYN, fieldY_packXYN, fieldN_packXYN]

theorem decode_packXYN_9 (n : Nibble) :
    decode (packXYN 0x9 x y n) = if n = 0x0 then .ok (.sneReg x y) else .error .malformedNibble := by
  rw [decode_family9 (fieldOp_packXYN ..), decodeZeroNibble, fieldX_packXYN, fieldY_packXYN, fieldN_packXYN]

/-! ## What the comparison skips do -/

variable (s : State)

theorem exec_seByte : exec (.seByte x kk) s = .next (s.skipIf (s.reg x == kk)) := rfl

theorem exec_sneByte : exec (.sneByte x kk) s = .next (s.skipIf (s.reg x != kk)) := rfl

theorem exec_seReg : exec (.seReg x y) s = .next (s.skipIf (s.reg x == s.reg y)) := rfl

theorem exec_sneReg : exec (.sneReg x y) s = .next (s.skipIf (s.reg x != s.reg y)) := rfl

end

/-! The tests of the skips compare the values as numbers. -/

theorem beq_iff_toNat_eq (a b : Byte) : (a == b) = true ↔ a.toNat = b.toNat :=
  beq_iff_eq.trans BitVec.toNat_inj.symm

theorem bne_iff_toNat_ne (a b : Byte) : (a != b) = true ↔ a.toNat ≠ b.toNat :=
  bne_iff_ne.trans BitVec.toNat_inj.symm.not

/-! ## The statement -/

/-- Settles O21: each of the four is one skip on its comparison, and the words of families 5 and 9 decode by their low
nibble. -/
theorem comparisonSkipsMovePcOnly : Obligations.ComparisonSkipsMovePcOnly := by
  intro x y kk s
  refine ⟨⟨decode_packXKK_3 x kk, exec_skip (exec_seByte x kk s) (beq_iff_toNat_eq ..)⟩,
    ⟨decode_packXKK_4 x kk, exec_skip (exec_sneByte x kk s) (bne_iff_toNat_ne ..)⟩,
    ⟨decode_packXYN_5 x y 0x0, exec_skip (exec_seReg x y s) (beq_iff_toNat_eq ..)⟩,
    ⟨decode_packXYN_9 x y 0x0, exec_skip (exec_sneReg x y s) (bne_iff_toNat_ne ..)⟩, fun n hn => ⟨?_, ?_⟩⟩
  · rw [decode_packXYN_5, if_neg hn]
  · rw [decode_packXYN_9, if_neg hn]

end Sys2Proof
end

section
/-! PROOF. The statements on the jump and on the primitive Pop (42_control.md R151, R152). The jump writes `pc` only; Pop is
one of the two cases of `State.pop_cases`. -/

namespace Sys2Proof

open Machine

/-! ## The jump (R152) -/

/-- A jump touches `pc` only. -/
theorem Machine.State.jump_frame (s : State) (a : Word) : s.jump a = { s with pc := (s.jump a).pc } := rfl

theorem decode_packNNN_1 (nnn : Addr) : decode (packNNN 0x1 nnn) = .ok (.jp nnn) := by
  rw [decode_family1 (fieldOp_packNNN ..), fieldNNN_packNNN]

theorem exec_jp (nnn : Addr) (s : State) : exec (.jp nnn) s = .next (s.jump (addrWord nnn)) := rfl

/-- Settles O23: the instruction is one jump to the zero-extended address. -/
theorem jumpSetsPcToTheAddress : Obligations.JumpSetsPcToTheAddress :=
  fun nnn s => ⟨decode_packNNN_1 nnn, _, exec_jp nnn s, s.jump_frame _, toNat_addrWord nnn⟩

/-! ## Pop (R151) -/

/-- A stack pointer that counts an entry, one lower. -/
theorem toNat_sub_one_of_eq_succ {sp : Byte} {k : Nat} (h : sp.toNat = k + 1) : (sp - 1).toNat = k := by
  bv_omega

/-- Pop on an empty stack (60_exceptions.md R241): a report and the value 0. -/
theorem Machine.State.pop_of_empty {s : State} (h : s.SP = 0) (w a : Word) :
    s.pop w a = (0x0000, s.report .stackUnderflow w a) := by
  obtain ⟨-, hp⟩ | ⟨hne, -⟩ := s.pop_cases w a
  · exact hp
  · exact absurd h hne

/-- Pop of entry `k`, the top one. -/
theorem Machine.State.pop_of_SP_eq_succ {s : State} {k : Nat} (hk : k < 16) (h : s.SP.toNat = k + 1) (w a : Word) :
    s.pop w a = (s.stack[k], { s with SP := s.SP - 1 }) := by
  have htop : (s.SP - 1).toNat % 16 = k := by rw [toNat_sub_one_of_eq_succ h, Nat.mod_eq_of_lt hk]
  obtain ⟨h0, -⟩ | ⟨-, hp⟩ := s.pop_cases w a
  · rw [h0] at h
    exact absurd h (Nat.succ_ne_zero k).symm
  · rw [hp, getElem_stackIndex s.stack _ k hk htop]

/-- Settles O29: the two clauses are the two cases of Pop, with the top entry read by its number. -/
theorem popTakesTheTopOrReports : Obligations.PopTakesTheTopOrReports := by
  intro s w a _
  constructor
  · intro h0
    rw [State.pop_of_empty h0]
    exact ⟨rfl, rfl⟩
  · intro k hk hSP
    rw [State.pop_of_SP_eq_succ hk hSP]
    exact ⟨rfl, toNat_sub_one_of_eq_succ hSP, rfl⟩

end Sys2Proof
end

section
/-! PROOF. The statement on CLS (43_random_display.md R174). The instruction is one call of the display's clear, which puts
the blank grid (60_exceptions.md R255) in place of the framebuffer and touches nothing else. -/

namespace Sys2Proof

open Machine

/-! ## Clearing the display (60_exceptions.md R255) -/

/-- A clear touches the framebuffer only. -/
theorem Machine.State.displayClear_frame (s : State) : s.displayClear = { s with fb := s.displayClear.fb } := rfl

theorem Machine.State.pixel_displayClear (s : State) (row col : Nat) : s.displayClear.fb.pixel row col = false := by
  rw [State.displayClear_fb, Framebuffer.pixel_blank]

/-! ## CLS (R174) -/

theorem decode_word_cls : decode 0x00E0 = .ok .cls := by
  rw [decode_family0 (by decide)]
  exact if_pos rfl

theorem exec_cls (s : State) : exec .cls s = .next s.displayClear := rfl

/-- Settles O33: the instruction is one clear of the display. -/
theorem clsUnsetsEveryPixel : Obligations.ClsUnsetsEveryPixel :=
  fun s => ⟨decode_word_cls, _, exec_cls s, s.displayClear_frame, s.pixel_displayClear⟩

end Sys2Proof
end

section
/-! PROOF. The statement on the delay timer (44_keyboard_timers.md R193, R194). Reading it is one register write of DT, so the
registers and the frame are those of `setReg`; setting it writes the field DT. -/

namespace Sys2Proof

open Machine

/-! ## The words of the delay timer (R81, R89, R90) -/

theorem decode_packXKK_F_07 (x : Reg) : decode (packXKK 0xF x 0x07) = .ok (.ldVxDT x) := by
  rw [decode_familyF (fieldOp_packXKK ..)]
  simp [decodeF]

theorem decode_packXKK_F_15 (x : Reg) : decode (packXKK 0xF x 0x15) = .ok (.ldDTVx x) := by
  rw [decode_familyF (fieldOp_packXKK ..)]
  simp [decodeF]

/-! ## What the two instructions do (R193, R194) -/

theorem exec_ldVxDT (x : Reg) (s : State) : exec (.ldVxDT x) s = .next (s.setReg x s.DT) := rfl

theorem exec_ldDTVx (x : Reg) (s : State) : exec (.ldDTVx x) s = .next { s with DT := s.reg x } := rfl

/-- Settles O43: the read is one register write of DT, and the set is the write of the field. -/
theorem delayTimerIsReadAndSet : Obligations.DelayTimerIsReadAndSet :=
  fun x s => ⟨⟨decode_packXKK_F_07 x, _, exec_ldVxDT x s, s.setReg_frame x _, fun r => s.reg_setReg x r _⟩,
    decode_packXKK_F_15 x, exec_ldDTVx x s⟩

end Sys2Proof
end

section
/-! PROOF. The statement on LD I, addr (45_index_memory.md R210). The instruction writes the field I with the address
zero-extended, and the zero extension keeps the address's number. -/

namespace Sys2Proof

open Machine

/-! ## LD I, addr (R210) -/

theorem decode_packNNN_A (nnn : Addr) : decode (packNNN 0xA nnn) = .ok (.ldI nnn) := by
  rw [decode_familyA (fieldOp_packNNN ..), fieldNNN_packNNN]

theorem exec_ldI (nnn : Addr) (s : State) : exec (.ldI nnn) s = .next { s with I := addrWord nnn } := rfl

/-- Settles O47: the next state is the write of I, so its frame is by definition and its value is the address's. -/
theorem loadISetsTheAddress : Obligations.LoadISetsTheAddress :=
  fun nnn s => ⟨decode_packNNN_A nnn, _, exec_ldI nnn s, rfl, toNat_addrWord nnn⟩

end Sys2Proof
end

section
/-! PROOF. The statement on the wait state machine (60_exceptions.md R264). That an instruction neither reads nor changes the
status is one fact: with any other status written to the state beforehand it answers the same next state with that status;
for the status the state already has, this says that it is left unchanged. -/

namespace Sys2Proof

open Machine

/-! ## LD Vx, K from each status (44_keyboard_timers.md R190) -/

section
variable (x : Reg) {s : State}

theorem exec_ldVxK_of_idle (h : s.wait = .idle) :
    exec (.ldVxK x) s = .next { s.rewind with wait := .waitingForKey } := by
  rw [exec, execLdVxK, h]

theorem exec_ldVxK_of_waitingForKey (h : s.wait = .waitingForKey) : exec (.ldVxK x) s = .next s.rewind := by
  rw [exec, execLdVxK, h]

theorem exec_ldVxK_of_keyCaptured {k : Key} (h : s.wait = .keyCaptured k) :
    exec (.ldVxK x) s = .next { s.setReg x (BitVec.ofNat 8 k.val) with wait := .idle } := by
  rw [exec, execLdVxK, h]

end

/-- The status an LD Vx, K leaves, from each status it can find. -/
theorem wait_after_ldVxK {x : Reg} {s t : State} (ht : exec (.ldVxK x) s = .next t) :
    (s.wait = .idle → t.wait = .waitingForKey) ∧ (s.wait = .waitingForKey → t.wait = .waitingForKey) ∧
    (∀ k, s.wait = .keyCaptured k → t.wait = .idle) := by
  refine ⟨fun h => ?_, fun h => ?_, fun k h => ?_⟩
  · cases ht.symm.trans (exec_ldVxK_of_idle x h)
    rfl
  · cases ht.symm.trans (exec_ldVxK_of_waitingForKey x h)
    exact h
  · cases ht.symm.trans (exec_ldVxK_of_keyCaptured x h)
    rfl

/-! ## The release edge (R263) -/

/-- Only a release edge in a wait moves the status, and it captures the released key. -/
theorem waitAfter_ne {w : KeyWait} {k : Key} {old down : Bool} (h : waitAfter w k old down ≠ w) :
    w = .waitingForKey ∧ waitAfter w k old down = .keyCaptured k ∧ old = true ∧ down = false := by
  by_cases hedge : old = true ∧ down = false ∧ w = .waitingForKey
  · obtain ⟨hold, hdown, hw⟩ := hedge
    exact ⟨hw, if_pos ⟨hold, hdown, hw⟩, hold, hdown⟩
  · exact absurd (if_neg hedge) h

/-! ## The other instructions -/

/-- Push neither reads nor changes the status. -/
theorem Machine.State.push_of_wait (s : State) (kw : KeyWait) (v w a : Word) :
    State.push { s with wait := kw } v w a = { s.push v w a with wait := kw } := by
  unfold State.push
  split <;> rfl

/-- Pop neither reads nor changes the status. -/
theorem Machine.State.pop_of_wait (s : State) (kw : KeyWait) (w a : Word) :
    State.pop { s with wait := kw } w a = ((s.pop w a).1, { (s.pop w a).2 with wait := kw }) := by
  unfold State.pop
  split <;> rfl

/-- No instruction but LD Vx, K looks at the status: with another one it answers the same next state, with that status. CALL
and RET branch on the stack pointer; every other next state is one record update that names no status. -/
theorem exec_of_wait {i : Instr} (hi : ∀ x, i ≠ .ldVxK x) (s : State) :
    ∃ t, exec i s = .next t ∧ ∀ w, exec i { s with wait := w } = .next { t with wait := w } := by
  cases i with
  | ldVxK x => exact absurd rfl (hi x)
  | call nnn =>
    refine ⟨_, rfl, fun w => ?_⟩
    rw [exec, execCall, State.push_of_wait]
    rfl
  | ret =>
    refine ⟨_, rfl, fun w => ?_⟩
    rw [exec, execRet, State.pop_of_wait]
    rfl
  | jp | jpV0 | seByte | sneByte | seReg | sneReg | skp | sknp | ldByte | addByte | ldReg | or | and | xor | addReg | sub
  | shr | subn | shl | ldVxDT | ldDTVx | ldSTVx | ldI | addI | ldF | ldB | ldMemV | ldVMem | cls | rnd | drw =>
    exact ⟨_, rfl, fun _ => rfl⟩

/-- Settles O39: the next states of LD Vx, K, the one case in which an event moves the status, and, for another instruction,
the same next state under every status. -/
theorem onlyKeyWaitAndReleasesTouchTheStatus : Obligations.OnlyKeyWaitAndReleasesTouchTheStatus := by
  refine ⟨fun x s t ht => wait_after_ldVxK ht, fun s k b h => waitAfter_ne h, fun i s w hi => ?_⟩
  obtain ⟨t, ht, hw⟩ := exec_of_wait hi s
  have hkeep := congrArg State.wait (Host.Outcome.next.inj (ht.symm.trans (hw s.wait)))
  exact ⟨t, ht, hkeep, hw w⟩

end Sys2Proof
end

section
/-! PROOF. The statements on decoding and encoding as inverses, and on the decode errors (30_encoding.md R78 to R82, R89). A
word's family says which decoder reads it, and the fields of a packed word are the operands it was packed from. -/

namespace Sys2Proof

/-! ## Decoding the word of an instruction (R73, R89) -/

theorem decode_word_ret : decode 0x00EE = .ok .ret := by
  rw [decode_family0 (by decide)]
  rfl

/-- Decoding the word of an instruction gives it back: the family's decoder reads back the operands the word was packed from,
and in families 8, E and F the operation they select. -/
theorem decode_encode (i : Instr) : decode (encode i) = .ok i := by
  cases i with
  | cls => exact decode_word_cls
  | ret => exact decode_word_ret
  | jp nnn => exact decode_packNNN_1 nnn
  | call nnn => rw [encode, decode_family2 (fieldOp_packNNN ..), fieldNNN_packNNN]
  | seByte x kk => exact decode_packXKK_3 x kk
  | sneByte x kk => exact decode_packXKK_4 x kk
  | seReg x y => exact decode_packXYN_5 x y 0x0
  | ldByte x kk => exact decode_packXKK_6 x kk
  | addByte x kk => exact decode_packXKK_7 x kk
  | ldReg x y | or x y | and x y | xor x y | addReg x y | sub x y | shr x y | subn x y | shl x y =>
    rw [encode, decode_family8 (fieldOp_packXYN ..)]
    simp [decode8]
  | sneReg x y => exact decode_packXYN_9 x y 0x0
  | ldI nnn => exact decode_packNNN_A nnn
  | jpV0 nnn => rw [encode, decode_familyB (fieldOp_packNNN ..), fieldNNN_packNNN]
  | rnd x kk => rw [encode, decode_familyC (fieldOp_packXKK ..), fieldX_packXKK, fieldKK_packXKK]
  | drw x y n => rw [encode, decode_familyD (fieldOp_packXYN ..), fieldX_packXYN, fieldY_packXYN, fieldN_packXYN]
  | skp x | sknp x =>
    rw [encode, decode_familyE (fieldOp_packXKK ..)]
    simp [decodeE]
  | ldVxDT x | ldVxK x | ldDTVx x | ldSTVx x | addI x | ldF x | ldB x | ldMemV x | ldVMem x =>
    rw [encode, decode_familyF (fieldOp_packXKK ..)]
    simp [decodeF]

/-- Settles O1. -/
theorem decodeOfEncodeIsTheInstruction : Obligations.DecodeOfEncodeIsTheInstruction := decode_encode

/-- Settles O2. -/
theorem decodedWordIsItsEncoding : Obligations.DecodedWordIsItsEncoding := fun _ _ h => encode_of_decode h

/-! ## The decode errors (R78 to R82) -/

section
variable (w : Word)

theorem decode0_error_iff : (∃ e, decode0 w = .error e) ↔ w ≠ 0x00E0 ∧ w ≠ 0x00EE := by
  unfold decode0
  split_ifs <;> simp_all

theorem decode8_error_iff :
    (∃ e, decode8 w = .error e) ↔ fieldN w ∈ ([0x8, 0x9, 0xA, 0xB, 0xC, 0xD, 0xF] : List Nibble) := by
  simp only [decode8]
  generalize fieldN w = n
  rcases nibble_cases n with rfl | rfl | rfl | rfl | rfl | rfl | rfl | rfl | rfl | rfl | rfl | rfl | rfl | rfl | rfl | rfl <;>
    simp

theorem decodeE_error_iff : (∃ e, decodeE w = .error e) ↔ fieldKK w ∉ ([0x9E, 0xA1] : List Byte) := by
  simp only [decodeE]
  split_ifs <;> simp_all

theorem decodeF_error_iff : (∃ e, decodeF w = .error e) ↔
    fieldKK w ∉ ([0x07, 0x0A, 0x15, 0x18, 0x1E, 0x29, 0x33, 0x55, 0x65] : List Byte) := by
  simp only [decodeF]
  split_ifs <;> simp_all

theorem decodeZeroNibble_error_iff (i : Instr) : (∃ e, decodeZeroNibble w i = .error e) ↔ fieldN w ≠ 0x0 := by
  unfold decodeZeroNibble
  split_ifs with h
  · simp [h]
  · simpa using h

end

/-- Settles O4, family by family: a family without holes decodes every word, and the holes of each other family are those of
its own decoder. -/
theorem decodeErrorsAreTheHolesOfTheFamilies : Obligations.DecodeErrorsAreTheHolesOfTheFamilies := by
  intro w
  rcases nibble_cases (fieldOp w) with h0 | h1 | h2 | h3 | h4 | h5 | h6 | h7 | h8 | h9 | hA | hB | hC | hD | hE | hF
  · simp [decode_family0 h0, decode0_error_iff, h0]
  · simp [decode_family1 h1, h1]
  · simp [decode_family2 h2, h2]
  · simp [decode_family3 h3, h3]
  · simp [decode_family4 h4, h4]
  · simp [decode_family5 h5, decodeZeroNibble_error_iff, h5]
  · simp [decode_family6 h6, h6]
  · simp [decode_family7 h7, h7]
  · simp [decode_family8 h8, decode8_error_iff, h8]
  · simp [decode_family9 h9, decodeZeroNibble_error_iff, h9]
  · simp [decode_familyA hA, hA]
  · simp [decode_familyB hB, hB]
  · simp [decode_familyC hC, hC]
  · simp [decode_familyD hD, hD]
  · simp [decode_familyE hE, decodeE_error_iff, hE]
  · simp [decode_familyF hF, decodeF_error_iff, hF]

end Sys2Proof
end

section
/-! PROOF. The statements on the logical operations, the subtractions and the shifts (40_alu.md R106 to R113). A logical
operation is one `setReg`, a subtraction or a shift one `setResultThenFlag`; what is left of each is its result and its flag
as bits or numbers. -/

namespace Sys2Proof

open Machine

/-! ## OR, AND, XOR (R106 to R108) -/

/-- What an instruction that writes `v` to `Vx` does, bit by bit. -/
theorem exec_setReg_bits {i : Instr} {s : State} {x : Reg} {v : Byte} (hi : exec i s = .next (s.setReg x v)) :
    ∃ t, exec i s = .next t ∧ t = { s with V := t.V } ∧ ∀ (r : Reg) (b : Nat), b < 8 →
      (t.reg r).getLsbD b = if r = x then v.getLsbD b else (s.reg r).getLsbD b :=
  ⟨_, hi, s.setReg_frame x v, fun r b _ => by rw [State.reg_setReg, apply_ite (BitVec.getLsbD · b)]⟩

/-- Settles O17: each is one register write, of the bitwise result. -/
theorem logicWritesVxAndLeavesVF : Obligations.LogicWritesVxAndLeavesVF := by
  intro x y s
  have hor := exec_setReg_bits (i := .or x y) (s := s) (v := s.reg x ||| s.reg y) rfl
  have hand := exec_setReg_bits (i := .and x y) (s := s) (v := s.reg x &&& s.reg y) rfl
  have hxor := exec_setReg_bits (i := .xor x y) (s := s) (v := s.reg x ^^^ s.reg y) rfl
  simp only [BitVec.getLsbD_or] at hor
  simp only [BitVec.getLsbD_and] at hand
  simp only [BitVec.getLsbD_xor] at hxor
  exact ⟨hor, hand, hxor⟩

/-! ## Results with a flag (R102, D7) -/

/-- What an instruction that writes the result `v` to `Vx` and then the flag `c` does, as numbers. -/
theorem exec_setResultThenFlag {i : Instr} {s : State} {x : Reg} {v : Byte} {c : Bool}
    (hi : exec i s = .next (s.setResultThenFlag x v c)) :
    ∃ t, exec i s = .next t ∧ t = { s with V := t.V } ∧ ∀ r : Reg, (t.reg r).toNat =
      if r = 15 then c.toNat else if r = x then v.toNat else (s.reg r).toNat :=
  ⟨_, hi, s.setResultThenFlag_frame x v c, fun r => by
    rw [State.reg_setResultThenFlag, apply_ite BitVec.toNat, apply_ite BitVec.toNat, toNat_boolToByte]⟩

/-! ## SUB and SUBN (R110, R112) -/

theorem toNat_noBorrowFlag (a b : Byte) : (noBorrowFlag a b).toNat = if a.toNat ≥ b.toNat then 1 else 0 :=
  Bool.cond_decide _ 1 0

/-- The difference of two bytes as an integer modulo 256 (R100). -/
theorem toNat_sub_eq_emod (a b : Byte) : ((a - b).toNat : Int) = ((a.toNat : Int) - b.toNat) % 256 := by
  rw [BitVec.toNat_sub]
  omega

/-- What an instruction that puts `a - b` in `Vx` and the no-borrow flag in VF does. -/
theorem exec_difference {i : Instr} {s : State} {x : Reg} {a b : Byte}
    (hi : exec i s = .next (s.setResultThenFlag x (a - b) (noBorrowFlag a b))) :
    ∃ t, exec i s = .next t ∧ t = { s with V := t.V } ∧ ∀ r : Reg, ((t.reg r).toNat : Int) =
      if r = 15 then (if a.toNat ≥ b.toNat then 1 else 0)
      else if r = x then ((a.toNat : Int) - b.toNat) % 256 else (s.reg r).toNat := by
  obtain ⟨t, ht, hframe, hreg⟩ := exec_setResultThenFlag hi
  refine ⟨t, ht, hframe, fun r => ?_⟩
  rw [hreg, toNat_noBorrowFlag, ← toNat_sub_eq_emod]
  push_cast
  rfl

/-- Settles O19: SUBN is SUB with the operands exchanged. -/
theorem subtractionsGiveDifferenceAndNoBorrow : Obligations.SubtractionsGiveDifferenceAndNoBorrow :=
  fun _ _ _ => ⟨exec_difference rfl, exec_difference rfl⟩

/-! ## SHR and SHL (R111, R113) -/

theorem toNat_shiftedOutRight (a : Byte) : (shiftedOutRight a).toNat = a.toNat % 2 := by
  rw [shiftedOutRight, BitVec.getLsbD, Nat.toNat_testBit]
  omega

theorem toNat_shiftedOutLeft (a : Byte) : (shiftedOutLeft a).toNat = a.toNat / 128 := by
  rw [shiftedOutLeft, BitVec.getLsbD, Nat.toNat_testBit]
  omega

theorem toNat_ushiftRight_one (a : Byte) : (a >>> 1).toNat = a.toNat / 2 := by
  rw [BitVec.toNat_ushiftRight, Nat.shiftRight_eq_div_pow, Nat.pow_one]

theorem toNat_shiftLeft_one (a : Byte) : (a <<< 1).toNat = 2 * a.toNat % 256 := by
  rw [BitVec.toNat_shiftLeft, Nat.shiftLeft_eq, Nat.pow_one, Nat.mul_comm]

/-- Settles O20: the shifts and the bits shifted out, as numbers; no result names `y`. -/
theorem shiftsGiveResultAndShiftedOutBit : Obligations.ShiftsGiveResultAndShiftedOutBit := by
  intro x y s
  have hshr := exec_setResultThenFlag (i := .shr x y) (s := s) rfl
  have hshl := exec_setResultThenFlag (i := .shl x y) (s := s) rfl
  rw [toNat_shiftedOutRight, toNat_ushiftRight_one] at hshr
  rw [toNat_shiftedOutLeft, toNat_shiftLeft_one] at hshl
  exact ⟨hshr, hshl⟩

end Sys2Proof
end

section
/-! PROOF. The statements on the key skips, JP V0, the index register, RND and the sound timer (41_skip.md R134, R135;
42_control.md R155; 43_random_display.md R171; 44_keyboard_timers.md R195; 45_index_memory.md R211, R212, R215). Each next
state is one of the shared operations or the write of one field. -/

namespace Sys2Proof

open Machine

/-! ## SKP and SKNP (R134, R135) -/

/-- Settles O22: each is a skip on the held flag of the key that the low nibble numbers. -/
theorem keySkipsTestTheHeldFlag : Obligations.KeySkipsTestTheHeldFlag := by
  intro x k s hk
  have hkey : lowNibble (s.reg x) = k := Fin.ext ((val_lowNibble _).trans hk)
  have hskp : exec (.skp x) s = .next (s.skipIf (s.keyHeld k)) := hkey ▸ rfl
  have hsknp : exec (.sknp x) s = .next (s.skipIf (!s.keyHeld k)) := hkey ▸ rfl
  refine ⟨exec_skip hskp Iff.rfl, ?_⟩
  simpa only [ite_not] using exec_skip (P := ¬ s.keyHeld k = true) hsknp (by simp)

/-! ## JP V0, addr (R155) -/

/-- A byte and an address added as words lose no carry. -/
theorem toNat_byteWord_add_addrWord (v : Byte) (nnn : Addr) : (byteWord v + addrWord nnn).toNat = v.toNat + nnn.toNat := by
  rw [BitVec.toNat_add, toNat_byteWord, toNat_addrWord]
  omega

/-- Settles O24: one jump to the sum. -/
theorem jumpV0AddsV0Unmasked : Obligations.JumpV0AddsV0Unmasked :=
  fun nnn s => ⟨_, rfl, s.jump_frame _, toNat_byteWord_add_addrWord (s.reg 0) nnn⟩

/-! ## ADD I, Vx and LD F, Vx (R211, R212) -/

/-- Settles O48: each is one write of I, and a glyph's address is below 65536. -/
theorem addIAndLoadFSetI : Obligations.AddIAndLoadFSetI := by
  refine fun x s => ⟨⟨{ s with I := s.I + byteWord (s.reg x) }, rfl, rfl, ?_⟩,
    ⟨{ s with I := glyphAddress s.fontBase (lowNibble (s.reg x)) }, rfl, rfl, ?_⟩⟩
  · rw [BitVec.toNat_add, toNat_byteWord]
  · rw [toNat_glyphAddress, val_lowNibble]

/-! ## RND (R171) -/

/-- Settles O32: one register write, of the draw under the mask, after the draw is consumed. -/
theorem rndPutsTheMaskedDrawInVx : Obligations.RndPutsTheMaskedDrawInVx := by
  refine fun x kk s => ⟨decode_encode (.rnd x kk), s.afterDraw.setReg x (s.randByte &&& kk), rfl, rfl, fun r b _ => ?_⟩
  rw [State.reg_setReg, apply_ite (BitVec.getLsbD · b), BitVec.getLsbD_and]
  rfl

/-! ## LD ST, Vx (R195) -/

theorem Machine.State.soundActive_iff (s : State) : s.soundActive = true ↔ s.ST.toNat ≠ 0 := bne_iff_toNat_ne s.ST 0

/-- Settles O44: one write of the sound timer. -/
theorem soundTimerIsSetAndHeard : Obligations.SoundTimerIsSetAndHeard :=
  fun x s => ⟨_, rfl, rfl, State.soundActive_iff { s with ST := s.reg x }⟩

/-! ## LD Vx, [I] (R215) -/

/-- Reading reduces the address modulo 4096. -/
theorem Machine.Memory.read_mod (m : Memory) (a : Nat) : m.read (a % 4096) = m.read a := m.read_wrapAddr a

/-- The registers after LD Vx, [I]. -/
theorem reg_ldVMem (x r : Reg) (s : State) :
    State.reg { s with V := setRegsFrom s.V 0 (s.mem.readBytes s.I.toNat (x.val + 1)) } r =
      if r ≤ x then s.mem.read (s.I.toNat + r.val) else s.reg r := by
  have hV : (setRegsFrom s.V 0 (s.mem.readBytes s.I.toNat (x.val + 1)))[r.val] = _ := getElem_setRegsFrom _ 0 _ _ r.isLt
  show (setRegsFrom s.V 0 (s.mem.readBytes s.I.toNat (x.val + 1)))[r.val] = _
  rw [hV]
  simp only [Memory.length_readBytes, Memory.getElem_readBytes, Nat.sub_zero]
  by_cases h : r ≤ x
  · rw [if_pos h, dif_pos ⟨Nat.zero_le _, Nat.lt_succ_of_le h⟩]
  · rw [if_neg h, dif_neg fun hc => h (Nat.le_of_lt_succ hc.2)]
    rfl

/-- Settles O51: the bytes from I on, written to V0..Vx as a block. -/
theorem registersAreLoadedInclusively : Obligations.RegistersAreLoadedInclusively := by
  refine fun x s => ⟨_, rfl, rfl, fun r => ?_⟩
  rw [Memory.read_mod]
  exact reg_ldVMem x r s

end Sys2Proof
end

section
/-! PROOF. The statements on fetch, memory and launch (20_memory.md R51 to R65; 45_index_memory.md R213, R214; 70_reset R280
to R283). All rest on one law: bytes written in a row read back and leave every byte outside them
(`Memory.read_writeBytes`, `Memory.read_writeBytes_of_ne`). -/

namespace Sys2Proof

open Machine

/-! ## The fetch (R51) -/

theorem Machine.State.toNat_fetchWord (s : State) :
    s.fetchWord.toNat = (s.mem.read s.pc.toNat).toNat * 256 + (s.mem.read (s.pc.toNat + 1)).toNat :=
  toNat_joinBytes _ _

/-- Settles O6. -/
theorem fetchIsBigEndianModulo4096 : Obligations.FetchIsBigEndianModulo4096 := by
  intro s
  rw [Memory.read_mod, Memory.read_mod, State.toNat_fetchWord]

/-- Settles O57: both bytes are read at addresses that reduce to the same ones. -/
theorem fetchIgnoresTheTopBitsOfPc : Obligations.FetchIgnoresTheTopBitsOfPc := by
  intro s pc' h
  have hlow : wrapAddr pc'.toNat = wrapAddr s.pc.toNat := h
  have hhigh : wrapAddr (pc'.toNat + 1) = wrapAddr (s.pc.toNat + 1) := by
    unfold wrapAddr
    omega
  simp only [State.fetchWord, s.mem.read_congr hlow, s.mem.read_congr hhigh]

/-- Every fetch that reads address `a` sees the byte that memory holds there. -/
theorem Machine.State.fetchSees_of_read {s : State} {a : Nat} {b : Byte} (h : s.mem.read a = b) : s.fetchSees a b := by
  intro pc'
  rw [State.toNat_fetchWord]
  have hlt := (s.mem.read (pc'.toNat + 1)).isLt
  constructor
  · intro ha
    have hb : s.mem.read pc'.toNat = b := (s.mem.read_congr ha).trans h
    simp only [hb]
    omega
  · intro ha
    have hb : s.mem.read (pc'.toNat + 1) = b := (s.mem.read_congr ha).trans h
    simp only [hb]
    omega

/-! ## Reads after writes (R52, R53) -/

/-- Settles O14. -/
theorem memoryReadsTheLastWrite : Obligations.MemoryReadsTheLastWrite :=
  fun _ a b v h => ⟨Memory.write_wf a v h, Memory.read_write a v h b⟩

/-! ## LD B, Vx and LD [I], Vx (R213, R214) -/

/-- What an instruction that stores the bytes `bs` from I on does. -/
theorem exec_writeBytes {i : Instr} {s : State} {bs : List Byte} (hwf : s.mem.wf) (hlen : bs.length ≤ 4096)
    (hi : exec i s = .next { s with mem := s.mem.writeBytes s.I.toNat bs }) :
    ∃ t, exec i s = .next t ∧ t = { s with mem := t.mem } ∧
      (∀ (j : Nat) (h : j < bs.length), t.mem.read (s.I.toNat + j) = bs[j]) ∧
      ∀ a : Nat, (∀ j < bs.length, a % 4096 ≠ (s.I.toNat + j) % 4096) → t.mem.read a = s.mem.read a :=
  ⟨_, hi, rfl, fun j h => Memory.read_writeBytes _ bs hwf hlen j h,
    fun a h => Memory.read_writeBytes_of_ne _ bs hwf a h⟩

/-- What LD B, Vx does: hundreds, tens and ones are stored. -/
theorem exec_ldB (x : Reg) {s : State} (hwf : s.mem.wf) : ∃ t, exec (.ldB x) s = .next t ∧ t = { s with mem := t.mem } ∧
    t.mem.read s.I.toNat = BitVec.ofNat 8 ((s.reg x).toNat / 100) ∧
    t.mem.read (s.I.toNat + 1) = BitVec.ofNat 8 ((s.reg x).toNat / 10 % 10) ∧
    t.mem.read (s.I.toNat + 2) = BitVec.ofNat 8 ((s.reg x).toNat % 10) ∧
    ∀ a : Nat, (∀ j < 3, a % 4096 ≠ (s.I.toNat + j) % 4096) → t.mem.read a = s.mem.read a := by
  obtain ⟨t, ht, hframe, hread, hother⟩ := exec_writeBytes (i := .ldB x) (bs := bcdDigits (s.reg x)) hwf (by simp) rfl
  exact ⟨t, ht, hframe, hread 0 (by simp), hread 1 (by simp), hread 2 (by simp), hother⟩

/-- What LD [I], Vx does: V0 to Vx are stored. -/
theorem exec_ldMemV (x : Reg) {s : State} (hwf : s.mem.wf) : ∃ t, exec (.ldMemV x) s = .next t ∧ t = { s with mem := t.mem } ∧
    (∀ r : Reg, r ≤ x → t.mem.read (s.I.toNat + r.val) = s.reg r) ∧
    ∀ a : Nat, (∀ j ≤ x.val, a % 4096 ≠ (s.I.toNat + j) % 4096) → t.mem.read a = s.mem.read a := by
  have hlen : (s.regsUpTo x).length = x.val + 1 := s.length_regsUpTo x
  obtain ⟨t, ht, hframe, hread, hother⟩ := exec_writeBytes (i := .ldMemV x) (bs := s.regsUpTo x) hwf (by omega) rfl
  refine ⟨t, ht, hframe, fun r hr => ?_, fun a ha => hother a fun j hj => ha j (by omega)⟩
  have hr' : r.val ≤ x.val := hr
  rw [hread r.val (by omega), State.getElem_regsUpTo s x r.val _ r.isLt]

/-- Settles O49: the stored digits as numbers. -/
theorem bcdStoresThreeDigits : Obligations.BcdStoresThreeDigits := by
  intro x s hwf
  obtain ⟨t, ht, hframe, h0, h1, h2, hother⟩ := exec_ldB x hwf
  have hx := (s.reg x).isLt
  refine ⟨decode_encode (.ldB x), t, ht, hframe, ?_, ?_, ?_, hother⟩
  · rw [h0, BitVec.toNat_ofNat]
    omega
  · rw [h1, BitVec.toNat_ofNat]
    omega
  · rw [h2, BitVec.toNat_ofNat]
    omega

/-- Settles O50. -/
theorem registersAreStoredInclusively : Obligations.RegistersAreStoredInclusively := fun x _ hwf => exec_ldMemV x hwf

/-! ## The step of a decoded instruction (30_encoding.md R70) -/

/-- A step whose word decodes to `i` is `exec i` after the advance, and then the work between steps. -/
theorem step_of_decode {s : State} {i : Instr} (h : decode s.fetchWord = .ok i) :
    step s = thenState (exec i s.advance) State.betweenSteps := by
  simp only [step, h]

/-- A step whose word decodes to an instruction with a next state. -/
theorem step_of_exec {s t : State} {i : Instr} (h : decode s.fetchWord = .ok i) (ht : exec i s.advance = .next t) :
    step s = .next t.betweenSteps := by
  rw [step_of_decode h, ht, thenState_next]

/-! ## Stored bytes and the next fetch (20_memory.md R65) -/

/-- The word fetched after both its bytes are written. -/
theorem toNat_fetchWord_of_write {s : State} (hwf : s.mem.wf) (hi lo : Byte) :
    (State.fetchWord { s with mem := (s.mem.write s.pc.toNat hi).write (s.pc.toNat + 1) lo }).toNat =
      hi.toNat * 256 + lo.toNat := by
  have hne : wrapAddr s.pc.toNat ≠ wrapAddr (s.pc.toNat + 1) := by
    unfold wrapAddr
    omega
  have hwf' := Memory.write_wf s.pc.toNat hi hwf
  simp only [State.toNat_fetchWord, Memory.read_write _ lo hwf', Memory.read_write _ hi hwf, if_pos, if_neg hne]

/-- Settles O15: the work between steps leaves memory alone, so a fetch after the step sees what the instruction stored. -/
theorem nextFetchSeesTheStoredBytes : Obligations.NextFetchSeesTheStoredBytes := by
  intro s hwf
  refine ⟨fun x hx => ?_, fun x hx => ?_, fun a b => ?_, toNat_fetchWord_of_write hwf⟩
  · obtain ⟨t, ht, hframe, hread, -⟩ := exec_ldMemV x (s := s.advance) hwf
    refine ⟨_, step_of_exec hx ht, ?_, fun r hr => State.fetchSees_of_read (hread r hr)⟩
    rw [State.betweenSteps_pc, hframe]
    rfl
  · obtain ⟨t, ht, hframe, h0, h1, h2, -⟩ := exec_ldB x (s := s.advance) hwf
    refine ⟨_, step_of_exec hx ht, ?_, State.fetchSees_of_read h0, State.fetchSees_of_read h1, State.fetchSees_of_read h2⟩
    rw [State.betweenSteps_pc, hframe]
    rfl
  · exact State.fetchSees_of_read ((Memory.read_write a b hwf a).trans (if_pos rfl))

/-! ## Launch (70_reset R280, R281, R283) -/

/-- Memory after launch is canonical, whatever the launch parameters. -/
theorem launch_mem_wf (p : Launch) : (State.launch p).mem.wf :=
  Memory.writeBytes_wf _ _ (Memory.writeBytes_wf _ _ (Memory.ofCells_wf p.initMem))

/-- Settles O11: the reset state is the launch of a well-formed record. -/
theorem launchMeetsTheInvariant : Obligations.LaunchMeetsTheInvariant := by
  have inv : ∀ p : Launch, p.wf → (State.launch p).Inv := fun p hp =>
    { mem_wf := launch_mem_wf p
      sp_le := by simp [State.launch]
      fstep_lt := by simp [State.launch, stepsPerFrame]
      font_fits := hp.1 }
  exact ⟨inv defaultLaunch (by decide), inv⟩

/-- Settles O12: the fields of the launch state, entry by entry. -/
theorem launchSetsTheResetValues : Obligations.LaunchSetsTheResetValues := by
  refine fun p => ⟨fun r => ?_, rfl, rfl, rfl, fun k h => ?_, rfl, rfl, fun k => ?_, rfl, rfl, rfl, Framebuffer.pixel_blank⟩
  · exact Vector.getElem_replicate r.isLt
  · exact Vector.getElem_replicate h
  · exact Vector.getElem_replicate k.isLt

/-- The program load leaves every byte outside the image (R283). -/
theorem Machine.Memory.read_loadImage_of_outside {m : Memory} (hwf : m.wf) (image : List Byte) {a : Nat} (ha : a < 4096)
    (hout : ¬ (0x200 ≤ a ∧ a < 0x200 + image.length)) : (m.loadImage image).read a = m.read a := by
  refine Memory.read_writeBytes_of_ne _ _ hwf a fun i hi => ?_
  simp only [List.length_take, maxImage] at hi
  simp only [wrapAddr, programBase]
  omega

/-- The image stands from 0x200 on, up to its largest size (R283). -/
theorem Machine.Memory.read_loadImage {m : Memory} (hwf : m.wf) (image : List Byte) (i : Nat) (h : i < image.length)
    (hi : i < 3584) : (m.loadImage image).read (0x200 + i) = image[i] := by
  have hlen : i < (image.take maxImage).length := by
    simp only [List.length_take, maxImage]
    omega
  have hmax : (image.take maxImage).length ≤ 4096 := (List.length_take_le _ _).trans (by decide)
  exact (Memory.read_writeBytes _ _ hwf hmax i hlen).trans List.getElem_take

theorem length_glyphBytes : glyphBytes.length = 80 := rfl

/-- The installed bytes are the glyphs one after the other, five bytes each (45_index_memory.md R216). -/
theorem getD_glyphBytes : ∀ d < 16, ∀ r < 5, glyphBytes.getD (5 * d + r) 0 = (glyphs.getD d []).getD r 0 := by decide

/-- The glyph install leaves every byte outside the 80 (R280). -/
theorem Machine.Memory.read_installGlyphs_of_outside {m : Memory} (hwf : m.wf) {base : Addr} (hfit : fontBaseFits base)
    {a : Nat} (ha : a < 4096) (hout : ¬ (base.toNat ≤ a ∧ a < base.toNat + 80)) :
    (m.installGlyphs base).read a = m.read a := by
  refine Memory.read_writeBytes_of_ne _ _ hwf a fun i hi => ?_
  rw [length_glyphBytes] at hi
  unfold wrapAddr
  omega

theorem Machine.Memory.read_installGlyphs {m : Memory} (hwf : m.wf) (base : Addr) {d r : Nat} (hd : d < 16) (hr : r < 5) :
    (m.installGlyphs base).read (base.toNat + 5 * d + r) = (glyphs.getD d []).getD r 0 := by
  have hlen : 5 * d + r < glyphBytes.length := by
    rw [length_glyphBytes]
    omega
  rw [Nat.add_assoc, ← getD_glyphBytes d hd r hr, List.getD_eq_getElem _ _ hlen]
  exact Memory.read_writeBytes _ _ hwf (by decide) _ hlen

/-- Settles O13: the image is written last; the glyphs lie below it, so they survive the load; what neither writes is
INIT_MEM. -/
theorem launchMemoryIsImageGlyphsAndInitMem : Obligations.LaunchMemoryIsImageGlyphsAndInitMem := by
  intro p hp
  obtain ⟨hfit, -⟩ := hp
  have hinit := Memory.ofCells_wf p.initMem
  have hglyphs : ((Memory.ofCells p.initMem).installGlyphs p.fontBase).wf := Memory.writeBytes_wf _ _ hinit
  refine ⟨fun i h hi => Memory.read_loadImage hglyphs p.image i h hi, fun d r hd hr => ?_, fun a ha hfont himage => ?_⟩
  · have hbelow : p.fontBase.toNat + 5 * d + r < 0x200 := by omega
    exact (Memory.read_loadImage_of_outside hglyphs p.image (by omega) (by omega)).trans
      (Memory.read_installGlyphs hinit p.fontBase hd hr)
  · exact (Memory.read_loadImage_of_outside hglyphs p.image ha himage).trans
      (Memory.read_installGlyphs_of_outside hinit hfit ha hfont)

end Sys2Proof
end

section
/-! PROOF. The statements on CALL, RET and the stack (42_control.md R150 to R154). With room Push writes the entry numbered by
`SP` and counts up, so a Pop right after it takes that entry back; pops in the reverse order follow by induction on the
values pushed. -/

namespace Sys2Proof

open Machine

/-! ## Push (R150) -/

/-- Push on a full stack (60_exceptions.md R241): a report. -/
theorem Machine.State.push_of_full {s : State} (h : s.SP = 16) (v w a : Word) :
    s.push v w a = s.report .stackOverflow w a := by
  obtain ⟨-, hp⟩ | ⟨hne, -⟩ := s.push_cases v w a
  · exact hp
  · exact absurd h hne

/-- Push with room: entry `SP` is written and `SP` counts up. -/
theorem Machine.State.push_of_room {s : State} (h : s.SP.toNat < 16) (v w a : Word) :
    s.push v w a = { s with stack := s.stack.set (stackIndex s.SP) v, SP := s.SP + 1 } := by
  obtain ⟨hfull, -⟩ | ⟨-, hp⟩ := s.push_cases v w a
  · rw [hfull] at h
    exact absurd h (by decide)
  · exact hp

theorem toNat_add_one_of_lt {sp : Byte} (h : sp.toNat < 16) : (sp + 1).toNat = sp.toNat + 1 := by
  bv_omega

theorem Machine.State.toNat_SP_push_of_room {s : State} (h : s.SP.toNat < 16) (v w a : Word) :
    (s.push v w a).SP.toNat = s.SP.toNat + 1 := by
  rw [State.push_of_room h]
  exact toNat_add_one_of_lt h

/-- The entries after a push with room. -/
theorem Machine.State.getElem_stack_push_of_room {s : State} (h : s.SP.toNat < 16) (v w a : Word) {k : Nat} (hk : k < 16) :
    (s.push v w a).stack[k] = if k = s.SP.toNat then v else s.stack[k] := by
  simp only [State.push_of_room h, getElem_set_stackIndex, Nat.mod_eq_of_lt h]

/-! ## CALL (R153) -/

theorem exec_call (nnn : Addr) (s : State) :
    exec (.call nnn) s = .next ((s.push s.pc (encode (.call nnn)) s.instrAddress).jump (addrWord nnn)) := rfl

/-- Settles O25: a push with room, then the jump. -/
theorem callPushesTheReturnAddress : Obligations.CallPushesTheReturnAddress := by
  refine fun nnn s h => ⟨_, exec_call nnn s, ?_, toNat_addrWord nnn, State.toNat_SP_push_of_room h _ _ _,
    fun k hk => State.getElem_stack_push_of_room h _ _ _ hk⟩
  rw [State.push_of_room h]
  rfl

/-- Settles O26: a push on a full stack, then the jump. -/
theorem callOnAFullStackReportsAndJumps : Obligations.CallOnAFullStackReportsAndJumps := by
  intro nnn s h
  refine ⟨_, exec_call nnn s, ?_, toNat_addrWord nnn, ?_⟩
  · rw [State.push_of_full h]
    rfl
  · rw [State.push_of_full h]
    rfl

/-! ## RET (R154) -/

theorem exec_ret (s : State) :
    exec .ret s = .next ((s.pop (encode .ret) s.instrAddress).2.jump (s.pop (encode .ret) s.instrAddress).1) := rfl

/-- What RET does when entry `k` is the top one. -/
theorem exec_ret_of_SP_eq_succ {s : State} {k : Nat} (hk : k < 16) (h : s.SP.toNat = k + 1) :
    exec .ret s = .next { s with pc := s.stack[k], SP := s.SP - 1 } := by
  rw [exec_ret, State.pop_of_SP_eq_succ hk h]
  rfl

/-- Settles O27. -/
theorem retTakesTheTopEntry : Obligations.RetTakesTheTopEntry := by
  intro s hpos hle
  obtain ⟨k, hSP⟩ : ∃ k, s.SP.toNat = k + 1 := Nat.exists_eq_add_of_lt hpos |>.imp fun _ h => by omega
  refine ⟨_, exec_ret_of_SP_eq_succ (by omega) hSP, rfl, ?_, fun j hj htop => ?_⟩
  · rw [toNat_sub_one_of_eq_succ hSP, hSP]
  · obtain rfl : j = k := by omega
    rfl

/-- Settles O28: a pop on an empty stack, then the jump to the value 0. -/
theorem retOnAnEmptyStackReportsAndGoesToZero : Obligations.RetOnAnEmptyStackReportsAndGoesToZero := by
  intro s h
  refine ⟨_, exec_ret s, ?_⟩
  rw [State.pop_of_empty h]
  exact ⟨rfl, rfl, rfl⟩

/-- Settles O30: the CALL's entry is the top one, and it holds the address behind the CALL. -/
theorem retAfterCallReturnsBehindTheCall : Obligations.RetAfterCallReturnsBehindTheCall := by
  intro nnn s h
  refine ⟨_, exec_call nnn s, fun u hSP hstack => ?_⟩
  rw [State.jump_SP] at hSP
  rw [State.jump_stack] at hstack
  have htop : u.SP.toNat = s.SP.toNat + 1 := by rw [hSP, State.toNat_SP_push_of_room h]
  refine ⟨_, exec_ret_of_SP_eq_succ h htop, ?_, ?_⟩
  · simp only [hstack, State.getElem_stack_push_of_room h, if_pos]
  · exact BitVec.eq_of_toNat_eq (toNat_sub_one_of_eq_succ htop)

/-! ## Pushes and pops in a row (R150, R151) -/

theorem Machine.State.pushAll_cons (s : State) (w a v : Word) (vs : List Word) :
    s.pushAll w a (v :: vs) = (s.push v w a).pushAll w a vs := rfl

/-- The last of `n + 1` pops, after the first `n`. -/
theorem Machine.State.popTimes_succ (s : State) (w a : Word) (n : Nat) :
    s.popTimes w a (n + 1) =
      ((s.popTimes w a n).1 ++ [((s.popTimes w a n).2.pop w a).1], ((s.popTimes w a n).2.pop w a).2) := by
  induction n generalizing s with
  | zero => rfl
  | succ n ih =>
    rw [State.popTimes, ih]
    rfl

/-- Pop right after a push with room, the stack `st` having only to keep the pushed entry. -/
theorem Machine.State.pop_push_of_room {s : State} (h : s.SP.toNat < 16) {v w a : Word} {st : Vector Word 16}
    (hv : st[s.SP.toNat] = v) : State.pop { s.push v w a with stack := st } w a = (v, { s with stack := st }) := by
  have hSP : State.SP { s.push v w a with stack := st } = s.SP + 1 := by rw [State.push_of_room h]
  have hpop := State.pop_of_SP_eq_succ (s := { s.push v w a with stack := st }) h (hSP ▸ toNat_add_one_of_lt h) w a
  have hback : s.SP + 1 - 1 = s.SP := by bv_omega
  rw [hpop, hv, hSP, hback, State.push_of_room h]

/-- Pushed values are popped in the reverse order; entries below the old `SP` are as before, those above are left behind. -/
theorem Machine.State.popTimes_pushAll (w a : Word) (vs : List Word) (s : State) (h : s.SP.toNat + vs.length ≤ 16) :
    ∃ st : Vector Word 16, (s.pushAll w a vs).popTimes w a vs.length = (vs.reverse, { s with stack := st }) ∧
      ∀ (k : Nat) (_ : k < 16), k < s.SP.toNat → st[k] = s.stack[k] := by
  induction vs generalizing s with
  | nil => exact ⟨s.stack, rfl, fun _ _ _ => rfl⟩
  | cons v vs ih =>
    rw [List.length_cons] at h
    have hroom : s.SP.toNat < 16 := by omega
    have hSP := State.toNat_SP_push_of_room hroom v w a
    obtain ⟨st, hpops, hbelow⟩ := ih (s.push v w a) (by omega)
    have hstack : ∀ (k : Nat) (_ : k < 16), k ≤ s.SP.toNat → st[k] = if k = s.SP.toNat then v else s.stack[k] :=
      fun k hk hle => (hbelow k hk (by omega)).trans (State.getElem_stack_push_of_room hroom v w a hk)
    have hlast := State.pop_push_of_room hroom (w := w) (a := a) ((hstack _ hroom (Nat.le_refl _)).trans (if_pos rfl))
    refine ⟨st, ?_, fun k hk hlt => (hstack k hk (Nat.le_of_lt hlt)).trans (if_neg (Nat.ne_of_lt hlt))⟩
    rw [State.pushAll_cons, List.length_cons, State.popTimes_succ, hpops, hlast, List.reverse_cons]

/-- Settles O31. -/
theorem popsReturnThePushesInReverse : Obligations.PopsReturnThePushesInReverse := by
  intro s vs w a h
  obtain ⟨st, hpops, hbelow⟩ := State.popTimes_pushAll w a vs s h
  rw [hpops]
  exact ⟨rfl, rfl, hbelow⟩

end Sys2Proof
end

section
/-! PROOF. The statement that the row-wise draw is the pixel loop of the contract (60_exceptions.md R257). The loop over the
columns of one sprite byte is followed pixel by pixel; eight columns make the draw of that one byte, and the rows follow by
induction on the bytes. -/

namespace Sys2Proof

open Machine

/-! ## Columns: the inner loop (R257) -/

/-- Inverting a pixel of the grid. -/
theorem Machine.Framebuffer.pixel_flip (fb : Framebuffer) {r c : Nat} (hr : r < 32) (hc : c < 64) (row : Nat) {col : Nat}
    (hcol : col < 64) : (fb.flip r c).pixel row col = (fb.pixel row col ^^ decide (row = r ∧ col = c)) := by
  rw [Framebuffer.flip, dif_pos ⟨hr, hc⟩, Framebuffer.pixel_set]
  by_cases h : row = r
  · subst h
    have hbit : (63 - c = 63 - col) ↔ (col = c) := by omega
    have hlt : 63 - c < 64 := by omega
    simp [Framebuffer.pixel, hr, BitVec.getMsbD, hcol, hbit, hlt]
  · simp [h]

/-- The bits of the first `n` columns of the sprite byte `b`, drawn on row `y` from column `x0` on. -/
def columnBits (x0 y : Nat) (b : Byte) (n row col : Nat) : Bool :=
  decide (row = y ∧ x0 ≤ col ∧ col < x0 + n) && b.getLsbD (7 - (col - x0))

theorem columnBits_zero (x0 y : Nat) (b : Byte) (row col : Nat) : columnBits x0 y b 0 row col = false := by
  simp [columnBits, show ¬ (x0 ≤ col ∧ col < x0) by omega]

/-- One column more adds the bit of that column. -/
theorem columnBits_succ (x0 y : Nat) (b : Byte) (n row col : Nat) : columnBits x0 y b (n + 1) row col =
    (columnBits x0 y b n row col ^^ (decide (row = y ∧ col = x0 + n) && b.getLsbD (7 - n))) := by
  unfold columnBits
  by_cases hc : col = x0 + n
  · subst hc
    simp
  · have hrange : col < x0 + (n + 1) ↔ col < x0 + n := by omega
    simp [hc, hrange]

/-- Before its turn a column has no bit. -/
theorem columnBits_next (x0 y : Nat) (b : Byte) (n row : Nat) : columnBits x0 y b n row (x0 + n) = false := by
  simp [columnBits]

theorem columnBits_succ_iff (x0 y : Nat) (b : Byte) (n row col : Nat) : columnBits x0 y b (n + 1) row col = true ↔
    columnBits x0 y b n row col = true ∨ (row = y ∧ col = x0 + n) ∧ b.getLsbD (7 - n) = true := by
  rw [columnBits_succ]
  by_cases hat : row = y ∧ col = x0 + n
  · obtain ⟨rfl, rfl⟩ := hat
    simp [columnBits_next]
  · simp [hat]

/-- All eight columns are the sprite of the one byte. -/
theorem columnBits_eight (x0 y : Nat) (b : Byte) (row : Nat) {col : Nat} (hcol : col < 64) :
    columnBits x0 y b 8 row col = spriteBit x0 y [b] row col := by
  rw [spriteBit_cons x0 y b [] row col hcol, getMsbD_spriteRow x0 b col hcol]
  by_cases h : row = y
  · simp [columnBits, h]
  · simp [columnBits, spriteBit, h]

section
variable (x0 y0 r : Nat) (b : Byte) (acc : Framebuffer × Bool)

/-- The loop body on the grid: the bit of its column is XORed on. -/
theorem pixel_pixelStep (c : Nat) {row col : Nat} (hrow : row < 32) (hcol : col < 64) :
    (pixelStep x0 y0 r b acc c).1.pixel row col =
      (acc.1.pixel row col ^^ (decide (row = y0 + r ∧ col = x0 + c) && b.getLsbD (7 - c))) := by
  unfold pixelStep
  split
  · rename_i h
    obtain ⟨hbit, hc, hr⟩ := h
    rw [Framebuffer.pixel_flip acc.1 hr hc row hcol, hbit, Bool.and_true]
  · rename_i h
    by_cases hat : row = y0 + r ∧ col = x0 + c
    · have hbit : b.getLsbD (7 - c) = false := by
        rw [← Bool.not_eq_true]
        exact fun hb => h ⟨hb, by omega, by omega⟩
      simp [hbit]
    · simp [hat]

/-- The loop body on the collision answer: it is set when the column's bit falls on a set pixel. -/
theorem snd_pixelStep (c : Nat) : (pixelStep x0 y0 r b acc c).2 = true ↔
    acc.2 = true ∨ (b.getLsbD (7 - c) = true ∧ x0 + c < 64 ∧ y0 + r < 32) ∧ acc.1.pixel (y0 + r) (x0 + c) = true := by
  unfold pixelStep
  split
  · rename_i h
    simp [h]
  · rename_i h
    simp [h]

/-- The grid after the first `n` columns. -/
theorem pixel_foldl_pixelStep (n : Nat) {row col : Nat} (hrow : row < 32) (hcol : col < 64) :
    ((List.range n).foldl (pixelStep x0 y0 r b) acc).1.pixel row col =
      (acc.1.pixel row col ^^ columnBits x0 (y0 + r) b n row col) := by
  induction n with
  | zero => simp [columnBits_zero]
  | succ n ih =>
    rw [List.range_succ, List.foldl_append, List.foldl_cons, List.foldl_nil, pixel_pixelStep _ _ _ _ _ _ hrow hcol, ih,
      columnBits_succ, Bool.xor_assoc]

/-- The collision answer after the first `n` columns. -/
theorem snd_foldl_pixelStep (n : Nat) : ((List.range n).foldl (pixelStep x0 y0 r b) acc).2 = true ↔ acc.2 = true ∨
    ∃ row < 32, ∃ col < 64, acc.1.pixel row col = true ∧ columnBits x0 (y0 + r) b n row col = true := by
  induction n with
  | zero => simp [columnBits_zero]
  | succ n ih =>
    rw [List.range_succ, List.foldl_append, List.foldl_cons, List.foldl_nil, snd_pixelStep, ih, or_assoc]
    refine or_congr_right ?_
    constructor
    · rintro (⟨row, hr, col, hc, hp, hb⟩ | ⟨⟨hbit, hc, hr⟩, hp⟩)
      · exact ⟨row, hr, col, hc, hp, (columnBits_succ_iff ..).2 (.inl hb)⟩
      · rw [pixel_foldl_pixelStep _ _ _ _ _ _ hr hc, columnBits_next, Bool.xor_false] at hp
        exact ⟨_, hr, _, hc, hp, (columnBits_succ_iff ..).2 (.inr ⟨⟨rfl, rfl⟩, hbit⟩)⟩
    · rintro ⟨row, hr, col, hc, hp, hb⟩
      obtain hb | ⟨⟨rfl, rfl⟩, hbit⟩ := (columnBits_succ_iff ..).1 hb
      · exact .inl ⟨row, hr, col, hc, hp, hb⟩
      · refine .inr ⟨⟨hbit, hc, hr⟩, ?_⟩
        rw [pixel_foldl_pixelStep _ _ _ _ _ _ hr hc, columnBits_next, Bool.xor_false, hp]

/-! ## Rows: the outer loop (R257) -/

/-- The inner loop draws the one byte. -/
theorem pixelRow_eq_drawRows : pixelRow x0 y0 r b acc =
    ((acc.1.drawRows x0 (y0 + r) [b]).1, acc.2 || (acc.1.drawRows x0 (y0 + r) [b]).2) := by
  refine Prod.ext (Framebuffer.ext_pixel fun row hr col hc => ?_) (Bool.eq_iff_iff.2 ?_)
  · rw [pixelRow, pixel_foldl_pixelStep _ _ _ _ _ _ hr hc, Framebuffer.pixel_drawRows _ _ _ _ _ _ hr hc,
      columnBits_eight _ _ _ _ hc]
  · rw [pixelRow, snd_foldl_pixelStep, Bool.or_eq_true, Framebuffer.drawRows_collides]
    refine or_congr_right (exists_congr fun row => and_congr_right fun _ => exists_congr fun col =>
      and_congr_right fun hc => ?_)
    rw [columnBits_eight _ _ _ _ hc]

end

/-- A draw is the draw of its first byte and then of the others, one row down. -/
theorem Machine.Framebuffer.drawRows_cons (fb : Framebuffer) (x0 row : Nat) (b : Byte) (bs : List Byte) :
    fb.drawRows x0 row (b :: bs) =
      ((Framebuffer.drawRows (fb.drawRows x0 row [b]).1 x0 (row + 1) bs).1,
        (fb.drawRows x0 row [b]).2 || (Framebuffer.drawRows (fb.drawRows x0 row [b]).1 x0 (row + 1) bs).2) := by
  by_cases h : row < 32
  · simp [Framebuffer.drawRows, h]
  · simp [Framebuffer.drawRows, h]

/-- The outer loop from row `r` of the sprite on draws the bytes left. -/
theorem pixelRows_eq_drawRows (x0 y0 r : Nat) (bs : List Byte) (acc : Framebuffer × Bool) : pixelRows x0 y0 r bs acc =
    ((acc.1.drawRows x0 (y0 + r) bs).1, acc.2 || (acc.1.drawRows x0 (y0 + r) bs).2) := by
  induction bs generalizing r acc with
  | nil => simp [pixelRows, Framebuffer.drawRows]
  | cons b bs ih =>
    rw [pixelRows, ih, pixelRow_eq_drawRows, Framebuffer.drawRows_cons acc.1 x0 (y0 + r) b bs, Bool.or_assoc]
    rfl

/-- Settles O35: the outer loop from the first row on an untouched answer. -/
theorem drawIsThePixelLoopOfTheContract : Obligations.DrawIsThePixelLoopOfTheContract := by
  intro fb x y bytes
  rw [Framebuffer.drawByPixel, pixelRows_eq_drawRows, Bool.false_or]
  rfl

end Sys2Proof
end

section
/-! PROOF. The statements on DRW (43_random_display.md R172). The request reduces the coordinates and reads the bytes, so its
sprite is that of the rules (`State.spriteOn`); the pixels and the collision answer are then those of a draw
(`Framebuffer.pixel_drawRows`, `Framebuffer.drawRows_collides`). -/

namespace Sys2Proof

open Machine

/-! ## The sprite of the request (R172, R173) -/

/-- The sprite of bytes read from memory. -/
theorem spriteBit_readBytes (x0 y0 : Nat) (m : Memory) (a n row col : Nat) :
    spriteBit x0 y0 (m.readBytes a n) row col = (decide (y0 ≤ row ∧ row < y0 + n ∧ x0 ≤ col ∧ col < x0 + 8) &&
      (m.read (a + (row - y0))).getLsbD (7 - (col - x0))) := by
  unfold spriteBit
  by_cases hrow : y0 ≤ row ∧ row < y0 + n
  · have hlen : row - y0 < (m.readBytes a n).length := by
      rw [Memory.length_readBytes]
      omega
    rw [List.getD_eq_getElem _ _ hlen, Memory.getElem_readBytes]
    simp [hrow]
  · by_cases hy : y0 ≤ row
    · have hlen : (m.readBytes a n).length ≤ row - y0 := by
        rw [Memory.length_readBytes]
        omega
      rw [List.getD_eq_default _ _ hlen]
      simp [hy, show ¬ row < y0 + n by omega]
    · simp [hy]

section
variable (s : State) (x y : Reg) (n : Nibble)

theorem drawRequest_x_mod : (s.drawRequest x y n).x.toNat % 64 = (s.reg x).toNat % 64 := by
  rw [State.drawRequest, BitVec.toNat_ofNat]
  omega

theorem drawRequest_y_mod : (s.drawRequest x y n).y.toNat % 32 = (s.reg y).toNat % 32 := by
  rw [State.drawRequest, BitVec.toNat_ofNat]
  omega

/-- The sprite of DRW's request is the sprite of the rules. -/
theorem spriteBit_drawRequest (row col : Nat) :
    spriteBit ((s.drawRequest x y n).x.toNat % 64) ((s.drawRequest x y n).y.toNat % 32) (s.drawRequest x y n).bytes row col =
      s.spriteOn x y n row col := by
  rw [drawRequest_x_mod, drawRequest_y_mod]
  exact spriteBit_readBytes ..

/-! ## What DRW does -/

/-- DRW: every pixel is XORed with the sprite's bit there, and VF is the answer `c`, whether a set pixel lay under a set
bit. -/
theorem exec_drw : ∃ (t : State) (c : Bool), exec (.drw x y n) s = .next t ∧ t = { s with fb := t.fb, V := t.V } ∧
    (∀ row < 32, ∀ col < 64, t.fb.pixel row col = (s.fb.pixel row col ^^ s.spriteOn x y n row col)) ∧
    (∀ r : Reg, t.reg r = if r = 15 then boolToByte c else s.reg r) ∧
    (c = true ↔ ∃ row < 32, ∃ col < 64, s.fb.pixel row col = true ∧ s.spriteOn x y n row col = true) := by
  refine ⟨_, (s.displayDraw (s.drawRequest x y n)).1, rfl, rfl, fun row hr col hc => ?_, fun r => State.reg_setFlag _ r _, ?_⟩
  · rw [← spriteBit_drawRequest]
    exact Framebuffer.pixel_drawRows _ _ _ _ _ _ hr hc
  · simp only [← spriteBit_drawRequest]
    exact Framebuffer.drawRows_collides ..

end

/-- A set pixel is unset by an exclusive or iff the other bit is set. -/
theorem xor_eq_false_iff_of_eq_true {p q : Bool} (hp : p = true) : (p ^^ q) = false ↔ q = true := by
  simp [hp]

/-- Settles O34: a set pixel becomes unset where a set bit lies on it. -/
theorem drwXorsTheSpriteAndReportsCollision : Obligations.DrwXorsTheSpriteAndReportsCollision := by
  intro x y n s
  obtain ⟨t, c, ht, hframe, hpixel, hreg, hc⟩ := exec_drw s x y n
  have hunset : (∃ row < 32, ∃ col < 64, s.fb.pixel row col = true ∧ t.fb.pixel row col = false) ↔ c = true := by
    rw [hc]
    refine exists_congr fun row => and_congr_right fun hr => exists_congr fun col => and_congr_right fun hcol =>
      and_congr_right fun hp => ?_
    rw [hpixel row hr col hcol, xor_eq_false_iff_of_eq_true hp]
  refine ⟨t, ht, hframe, hpixel, fun r hr => (hreg r).trans (if_neg hr), fun h => ?_, fun h => ?_⟩
  · rw [hreg, if_pos rfl, hunset.1 h]
    rfl
  · rw [hreg, if_pos rfl, Bool.eq_false_of_not_eq_true (mt hunset.2 h)]
    rfl

/-! ## The same sprite twice -/

/-- The sprite depends on the two coordinates, I and memory only. -/
theorem spriteOn_congr {s t : State} {x y : Reg} (hx : t.reg x = s.reg x) (hy : t.reg y = s.reg y) (hI : t.I = s.I)
    (hmem : t.mem = s.mem) (n : Nibble) (row col : Nat) : t.spriteOn x y n row col = s.spriteOn x y n row col := by
  simp only [State.spriteOn, hx, hy, hI, hmem]

theorem boolToByte_eq_one_iff (c : Bool) : boolToByte c = 1 ↔ c = true := by
  cases c <;> decide

/-- Settles O36: the first draw leaves the coordinates alone, so the second draws the same sprite and each pixel is XORed with
the same bit twice; over unset pixels the first draw sets exactly the sprite's. -/
theorem drawingTwiceRestoresTheScreen : Obligations.DrawingTwiceRestoresTheScreen := by
  intro x y n s hx hy
  obtain ⟨t, c, ht, htframe, htpixel, htreg, hc⟩ := exec_drw s x y n
  obtain ⟨u, d, hu, -, hupixel, hureg, hd⟩ := exec_drw t x y n
  have hsprite : ∀ row col, t.spriteOn x y n row col = s.spriteOn x y n row col :=
    spriteOn_congr ((htreg x).trans (if_neg hx)) ((htreg y).trans (if_neg hy)) (by rw [htframe]) (by rw [htframe]) n
  simp only [hsprite] at hupixel hd
  refine ⟨t, u, ht, hu, Framebuffer.ext_pixel fun row hr col hcol => ?_, fun hclear => ⟨?_, ?_⟩⟩
  · rw [hupixel row hr col hcol, htpixel row hr col hcol, Bool.xor_assoc, Bool.xor_self, Bool.xor_false]
  · have hnone : c = false := by
      rw [← Bool.not_eq_true, hc]
      rintro ⟨row, hr, col, hcol, hp, hs⟩
      exact Bool.false_ne_true ((hclear row hr col hcol hs).symm.trans hp)
    rw [htreg, if_pos rfl, hnone]
    rfl
  · rw [hureg, if_pos rfl, boolToByte_eq_one_iff, hd]
    refine exists_congr fun row => and_congr_right fun hr => exists_congr fun col => and_congr_right fun hcol =>
      and_iff_right_of_imp fun hs => ?_
    rw [htpixel row hr col hcol, hclear row hr col hcol hs, hs]
    rfl

end Sys2Proof
end

section
/-! PROOF. The statements on the keyboard (44_keyboard_timers.md R190 to R192; 60_exceptions.md R262, R263). The events of a
boundary are one fold over the held flags and the wait status; it is followed event by event, the last one taken off, so that
the level before each event is that of the events before it. -/

namespace Sys2Proof

open Machine

/-! ## LD Vx, K (R190) -/

/-- Settles O37: the three statuses, one after the other. -/
theorem keyWaitStoresOrRewinds : Obligations.KeyWaitStoresOrRewinds := by
  refine fun x s => ⟨fun k hk => ⟨_, exec_ldVxK_of_keyCaptured x hk, rfl, fun r => ?_⟩, exec_ldVxK_of_idle x,
    exec_ldVxK_of_waitingForKey x⟩
  have hbyte : (BitVec.ofNat 8 k.val).toNat = k.val := by
    rw [BitVec.toNat_ofNat]
    omega
  exact (congrArg BitVec.toNat (s.reg_setReg x r _)).trans ((apply_ite BitVec.toNat ..).trans (by rw [hbyte]))

/-! ## One event (R263) -/

theorem waitAfter_of_edge (k : Key) : waitAfter .waitingForKey k true false = .keyCaptured k := rfl

theorem waitAfter_of_not_edge {w : KeyWait} {k : Key} {old down : Bool}
    (h : ¬ (old = true ∧ down = false ∧ w = .waitingForKey)) : waitAfter w k old down = w := if_neg h

/-- The held flags with one set. -/
theorem getElem_set_held (held : Vector Bool 16) (k j : Key) (b : Bool) : (held.set k b)[j] = if j = k then b else held[j] := by
  simp only [Fin.getElem_fin, Vector.getElem_set, Fin.ext_iff, eq_comm (a := j.val)]

/-- Settles O38. -/
theorem releaseEdgeWhileWaitingCaptures : Obligations.ReleaseEdgeWhileWaitingCaptures := by
  refine fun s k b => ⟨rfl, fun j => getElem_set_held s.held k j b, ?_, fun h => waitAfter_of_not_edge h⟩
  rintro ⟨hold, rfl, hw⟩
  rw [State.setHeld_wait, hw, show s.held[k] = true from hold, waitAfter_of_edge]

/-! ## The events of a boundary (R262, R263) -/

/-- The held flags and the wait status after the events `es` from `s`. -/
def keyboardAfterAll (s : State) (es : List KeyEvent) : Vector Bool 16 × KeyWait :=
  es.foldl keyboardAfter (s.held, s.wait)

section
variable (s : State)

theorem hostEvents_held_of_cons {es : List KeyEvent} {later : List (List KeyEvent)} (h : s.keyEvents = es :: later) :
    s.hostEvents.held = (keyboardAfterAll s es).1 := by
  rw [State.hostEvents, h]
  rfl

theorem hostEvents_wait_of_cons {es : List KeyEvent} {later : List (List KeyEvent)} (h : s.keyEvents = es :: later) :
    s.hostEvents.wait = (keyboardAfterAll s es).2 := by
  rw [State.hostEvents, h]
  rfl

theorem keyboardAfterAll_snoc (es : List KeyEvent) (e : KeyEvent) :
    keyboardAfterAll s (es ++ [e]) = keyboardAfter (keyboardAfterAll s es) e := by
  rw [keyboardAfterAll, List.foldl_append]
  rfl

/-- After the events a key's flag is the level of its last event. -/
theorem held_keyboardAfterAll (es : List KeyEvent) (k : Key) : (keyboardAfterAll s es).1[k] = s.levelAfter es k := by
  induction es using List.reverseRecOn with
  | nil => rfl
  | append_singleton es e ih =>
    rw [keyboardAfterAll_snoc, keyboardAfter, getElem_set_held, ih, State.levelAfter_snoc]
    simp only [eq_comm]

/-- An event moves the status only if it is a release edge in a wait. -/
theorem wait_keyboardAfterAll_snoc (es : List KeyEvent) (e : KeyEvent) : (keyboardAfterAll s (es ++ [e])).2 =
    waitAfter (keyboardAfterAll s es).2 e.key (s.levelAfter es e.key) e.down := by
  rw [keyboardAfterAll_snoc, keyboardAfter, held_keyboardAfterAll]

/-- No release edge, no capture. -/
theorem wait_keyboardAfterAll_of_noReleaseEdge {es : List KeyEvent} (h : s.noReleaseEdge es) :
    (keyboardAfterAll s es).2 = s.wait := by
  induction es using List.reverseRecOn with
  | nil => rfl
  | append_singleton es e ih =>
    obtain ⟨hes, he⟩ := (s.noReleaseEdge_snoc es e).1 h
    rw [wait_keyboardAfterAll_snoc, ih hes]
    refine waitAfter_of_not_edge ?_
    rintro ⟨hlevel, hdown, -⟩
    simp [State.releaseEdge, hlevel, hdown] at he

/-- Outside a wait no event is captured. -/
theorem wait_foldl_keyboardAfter_of_ne {kb : Vector Bool 16 × KeyWait} (h : kb.2 ≠ .waitingForKey) (es : List KeyEvent) :
    (es.foldl keyboardAfter kb).2 = kb.2 := by
  induction es generalizing kb with
  | nil => rfl
  | cons e es ih =>
    have hkeep : (keyboardAfter kb e).2 = kb.2 := waitAfter_of_not_edge fun ⟨_, _, hw⟩ => h hw
    rw [List.foldl_cons, ih (by rwa [hkeep]), hkeep]

theorem wait_hostEvents_of_ne {s : State} (h : s.wait ≠ .waitingForKey) : s.hostEvents.wait = s.wait :=
  wait_foldl_keyboardAfter_of_ne h (s.keyEvents.headD [])

/-- The first release edge in a wait is captured, whatever comes after it. -/
theorem wait_keyboardAfterAll_of_edge {pre : List KeyEvent} {e : KeyEvent} (hw : s.wait = .waitingForKey)
    (hpre : s.noReleaseEdge pre) (he : s.releaseEdge pre e = true) (post : List KeyEvent) :
    (keyboardAfterAll s (pre ++ e :: post)).2 = .keyCaptured e.key := by
  obtain ⟨hlevel, hdown⟩ : s.levelAfter pre e.key = true ∧ e.down = false := by simpa [State.releaseEdge] using he
  have hcapture : (keyboardAfterAll s (pre ++ [e])).2 = .keyCaptured e.key := by
    rw [wait_keyboardAfterAll_snoc, wait_keyboardAfterAll_of_noReleaseEdge s hpre, hw, hlevel, hdown, waitAfter_of_edge]
  rw [List.append_cons, keyboardAfterAll, List.foldl_append]
  exact (wait_foldl_keyboardAfter_of_ne (by rw [← keyboardAfterAll, hcapture]; nofun) post).trans hcapture

end

/-- Settles O42. -/
theorem heldFlagIsTheLastEvent : Obligations.HeldFlagIsTheLastEvent := by
  intro s es later k h
  refine ⟨?_, by rw [State.hostEvents_keyEvents, h, List.tail_cons]⟩
  rw [State.keyHeld, hostEvents_held_of_cons s h]
  exact held_keyboardAfterAll s es k

/-- Settles O58. -/
theorem firstReleaseEdgeOfABoundaryIsCaptured : Obligations.FirstReleaseEdgeOfABoundaryIsCaptured := by
  intro s es later h
  refine ⟨wait_hostEvents_of_ne, ?_⟩
  rw [hostEvents_wait_of_cons s h]
  refine ⟨fun hw hes => (wait_keyboardAfterAll_of_noReleaseEdge s hes).trans hw, ?_⟩
  rintro hw pre post e rfl hpre he
  exact wait_keyboardAfterAll_of_edge s hw hpre he post

/-! ## The step of LD Vx, K (44_keyboard_timers.md R190 to R192) -/

section
variable {s : State} {x : Reg}

/-- With no key captured LD Vx, K begins the wait or goes on with it. -/
theorem exec_ldVxK_of_not_captured (hw : ∀ k, s.wait ≠ .keyCaptured k) :
    exec (.ldVxK x) s = .next { s.rewind with wait := .waitingForKey } := by
  cases h : s.wait with
  | idle => exact exec_ldVxK_of_idle x h
  | waitingForKey => rw [exec_ldVxK_of_waitingForKey x h, ← h, ← State.rewind_wait s]
  | keyCaptured k => exact absurd h (hw k)

/-- Everything LD Vx, K can do: store the captured key, or wait. -/
theorem exec_ldVxK_cases (x : Reg) (s : State) :
    (∃ k, s.wait = .keyCaptured k ∧
      exec (.ldVxK x) s = .next { s.setReg x (BitVec.ofNat 8 k.val) with wait := .idle }) ∨
    ((∀ k, s.wait ≠ .keyCaptured k) ∧ exec (.ldVxK x) s = .next { s.rewind with wait := .waitingForKey }) := by
  by_cases h : ∃ k, s.wait = .keyCaptured k
  · obtain ⟨k, hk⟩ := h
    exact .inl ⟨k, hk, exec_ldVxK_of_keyCaptured x hk⟩
  · exact .inr ⟨not_exists.1 h, exec_ldVxK_of_not_captured (not_exists.1 h)⟩

/-- With no key captured the step of LD Vx, K ends in a wait, `pc` back at the instruction (D10). -/
theorem step_ldVxK_of_not_captured (hx : decode s.fetchWord = .ok (.ldVxK x)) (hw : ∀ k, s.wait ≠ .keyCaptured k) :
    step s = .next (State.betweenSteps { s with wait := .waitingForKey }) := by
  have hback : s.advance.rewind = s := by simp [State.advance, State.rewind]
  rw [step_of_exec hx (exec_ldVxK_of_not_captured (s := s.advance) hw), hback]

/-- What a step of LD Vx, K does with a captured key. -/
theorem step_ldVxK_of_captured {k : Key} (hx : decode s.fetchWord = .ok (.ldVxK x))
    (hw : s.wait = .keyCaptured k) :
    step s = .next (State.betweenSteps { s.advance.setReg x (BitVec.ofNat 8 k.val) with wait := .idle }) :=
  step_of_exec hx (exec_ldVxK_of_keyCaptured x hw)

end

theorem noReleaseEdge_of_all_down (s : State) {es : List KeyEvent} (h : ∀ e ∈ es, e.down = true) : s.noReleaseEdge es := by
  intro i hi
  rw [State.releaseEdge, h _ (List.getElem_mem hi), Bool.not_true, Bool.and_false]

/-- A boundary at which no key is let go leaves the status. -/
theorem wait_hostEvents_of_all_down {s : State} (h : ∀ es ∈ s.keyEvents.take 1, ∀ e ∈ es, e.down = true) :
    s.hostEvents.wait = s.wait := by
  cases hes : s.keyEvents with
  | nil =>
    rw [State.hostEvents, hes]
    rfl
  | cons es later =>
    rw [hostEvents_wait_of_cons s hes]
    exact wait_keyboardAfterAll_of_noReleaseEdge s (noReleaseEdge_of_all_down s (h es (by simp [hes])))

/-- The two states agree on `pc`, the registers, memory, the stack and the error log. -/
structure SameProgram (s t : State) : Prop where
  pc : t.pc = s.pc
  V : t.V = s.V
  mem : t.mem = s.mem
  I : t.I = s.I
  SP : t.SP = s.SP
  stack : t.stack = s.stack
  errlog : t.errlog = s.errlog

theorem SameProgram.trans {s t u : State} (h : SameProgram s t) (h' : SameProgram t u) : SameProgram s u :=
  ⟨h'.pc.trans h.pc, h'.V.trans h.V, h'.mem.trans h.mem, h'.I.trans h.I, h'.SP.trans h.SP, h'.stack.trans h.stack,
    h'.errlog.trans h.errlog⟩

/-- While no key is let go, `n` steps of LD Vx, K change the keyboard, the schedule and the frame alone; the machine waits
after them if it waited before or has taken a step. -/
theorem stepsToIn_ldVxK (x : Reg) (n : Nat) (s : State) (hx : decode s.fetchWord = .ok (.ldVxK x))
    (hw : ∀ k, s.wait ≠ .keyCaptured k) (hdown : ∀ es ∈ s.keyEvents.take n, ∀ e ∈ es, e.down = true) :
    ∃ t, StepsToIn n s t ∧ SameProgram s t ∧ (0 < n ∨ s.wait = .waitingForKey → t.wait = .waitingForKey) ∧
      t.keyEvents = s.keyEvents.drop n := by
  induction n generalizing s with
  | zero => exact ⟨s, .done s, ⟨rfl, rfl, rfl, rfl, rfl, rfl, rfl⟩, fun h => h.resolve_left (Nat.lt_irrefl 0), rfl⟩
  | succ n ih =>
    have hfirst := step_ldVxK_of_not_captured hx hw
    generalize hs' : State.betweenSteps { s with wait := .waitingForKey } = s' at hfirst
    have hsame : SameProgram s s' := hs' ▸ ⟨rfl, rfl, rfl, rfl, rfl, rfl, rfl⟩
    have hevents : s'.keyEvents = s.keyEvents.tail := hs' ▸ rfl
    have hfetch : s'.fetchWord = s.fetchWord := hs' ▸ rfl
    have hwait : s'.wait = .waitingForKey := by
      rw [← hs']
      refine wait_hostEvents_of_all_down (s := { s with wait := .waitingForKey }) fun es hes => hdown es ?_
      exact List.take_subset_take_left _ (Nat.succ_le_succ (Nat.zero_le n)) hes
    have hdown' : ∀ es ∈ s'.keyEvents.take n, ∀ e ∈ es, e.down = true := by
      rw [hevents, ← List.drop_one, List.take_drop, Nat.add_comm]
      exact fun es hes => hdown es (List.mem_of_mem_drop hes)
    obtain ⟨t, hrest, hsame', hwait', hevents'⟩ := ih s' (hfetch ▸ hx) (by rw [hwait]; nofun) hdown'
    refine ⟨t, .more hfirst hrest, hsame.trans hsame', fun _ => hwait' (.inr hwait), ?_⟩
    rw [hevents', hevents, List.drop_tail]

/-- Settles O40. -/
theorem keyWaitHoldsUntilARelease : Obligations.KeyWaitHoldsUntilARelease := by
  intro n s x hx hw hdown
  obtain ⟨t, hsteps, hsame, hwait, hevents⟩ := stepsToIn_ldVxK x n s hx hw hdown
  exact ⟨t, hsteps, hsame.pc, hsame.V, hsame.mem, hsame.I, hsame.SP, hsame.stack, hsame.errlog, fun h => hwait (.inl h),
    hevents⟩

/-- The boundary after a step that ends waiting captures the first key let go. -/
theorem wait_betweenSteps_of_edge {s : State} {k : Key} {pre post : List KeyEvent} {later : List (List KeyEvent)}
    (hw : s.wait = .waitingForKey) (hevents : s.keyEvents = (pre ++ { key := k, down := false } :: post) :: later)
    (hpre : s.noReleaseEdge pre) (hlevel : s.levelAfter pre k = true) : s.betweenSteps.wait = .keyCaptured k := by
  have hedge : s.releaseEdge pre { key := k, down := false } = true := by
    rw [State.releaseEdge, hlevel, Bool.not_false, Bool.and_true]
  rw [State.betweenSteps_wait, hostEvents_wait_of_cons s hevents]
  exact wait_keyboardAfterAll_of_edge s hw hpre hedge post

/-- Settles O41: the boundary after the first step captures the key, and no boundary moves the status Idle that the second
step leaves. -/
theorem releaseEndsTheKeyWait : Obligations.ReleaseEndsTheKeyWait := by
  intro s x k pre post later hx hw hevents hpre hlevel
  have hcaptured : (State.betweenSteps { s with wait := .waitingForKey }).wait = .keyCaptured k :=
    wait_betweenSteps_of_edge (s := { s with wait := .waitingForKey }) rfl hevents hpre hlevel
  refine ⟨_, _, step_ldVxK_of_not_captured hx hw, hcaptured, rfl, rfl, step_ldVxK_of_captured hx hcaptured, ?_, ?_, rfl⟩
  · refine (congrArg BitVec.toNat (State.reg_setReg _ x x _)).trans ?_
    rw [if_pos rfl, BitVec.toNat_ofNat]
    omega
  · exact (State.betweenSteps_wait _).trans (wait_hostEvents_of_ne (by nofun))

end Sys2Proof
end

section
/-! PROOF. The statements on every step (30_encoding.md R70, R84; 10_state.md R24 to R34; 60_exceptions.md R240 to R250). What
one instruction leaves unchanged is said once, part by part (`ExecFrame`, from `mayWrite`); the invariant, the reports and the
timers are read off it, with the few writers of a part taken one by one. -/

namespace Sys2Proof

open Machine

/-! ## Every step answers (R268) -/

/-- Settles O7. -/
theorem stepRunsTheDecodedInstruction : Obligations.StepRunsTheDecodedInstruction := fun _ _ h => step_of_decode h

/-- The step of a word that decodes to none. -/
theorem step_of_decode_error {s : State} {e : DecodeError} (h : decode s.fetchWord = .error e) :
    step s = .next (s.advance.decodeErrorReport s.fetchWord).betweenSteps := by
  simp only [step, h]

/-- Settles O8: the report's address is the `pc` before the advance. -/
theorem decodeErrorIsReportedAndPassedOver : Obligations.DecodeErrorIsReportedAndPassedOver := by
  intro s e h
  rw [step_of_decode_error h, State.decodeErrorReport, State.instrAddress_advance]
  rfl

theorem exec_next (i : Instr) (s : State) : ∃ t, exec i s = .next t := by
  by_cases hi : ∃ x, i = .ldVxK x
  · obtain ⟨x, rfl⟩ := hi
    obtain ⟨_, -, h⟩ | ⟨-, h⟩ := exec_ldVxK_cases x s
    · exact ⟨_, h⟩
    · exact ⟨_, h⟩
  · obtain ⟨t, ht, -⟩ := exec_of_wait (not_exists.1 hi) s
    exact ⟨t, ht⟩

/-- Settles O9. -/
theorem everyStepAnswersANextState : Obligations.EveryStepAnswersANextState := by
  intro s
  cases h : decode s.fetchWord with
  | ok i =>
    obtain ⟨t, ht⟩ := exec_next i s.advance
    exact ⟨_, step_of_exec h ht⟩
  | error e => exact ⟨_, step_of_decode_error h⟩

/-! ## What an instruction leaves unchanged (10_state.md R24, R26 to R34) -/

/-- A part that `i` may not write is the same after it; the held flags, the frame count, FONT_BASE and the schedule always
are. -/
structure ExecFrame (i : Instr) (s t : State) : Prop where
  V : .registers ∉ mayWrite i → t.V = s.V
  I : .index ∉ mayWrite i → t.I = s.I
  mem : .memory ∉ mayWrite i → t.mem = s.mem
  SP : .stack ∉ mayWrite i → t.SP = s.SP
  stack : .stack ∉ mayWrite i → t.stack = s.stack
  DT : .delayTimer ∉ mayWrite i → t.DT = s.DT
  ST : .soundTimer ∉ mayWrite i → t.ST = s.ST
  wait : .keyWait ∉ mayWrite i → t.wait = s.wait
  errlog : .errors ∉ mayWrite i → t.errlog = s.errlog
  fb : .display ∉ mayWrite i → t.fb = s.fb
  draws : .randomSource ∉ mayWrite i → t.draws = s.draws
  held : t.held = s.held
  fstep : t.fstep = s.fstep
  fontBase : t.fontBase = s.fontBase
  keyEvents : t.keyEvents = s.keyEvents

theorem exec_frame {i : Instr} {s t : State} (h : exec i s = .next t) : ExecFrame i s t := by
  cases i with
  | ldVxK x =>
    obtain ⟨_, -, hexec⟩ | ⟨-, hexec⟩ := exec_ldVxK_cases x s
    · cases h.symm.trans hexec
      constructor <;> simp [mayWrite]
    · cases h.symm.trans hexec
      constructor <;> simp [mayWrite]
  | cls | ret | jp | call | seByte | sneByte | seReg | ldByte | addByte | ldReg | or | and | xor | addReg | sub | shr | subn
  | shl | sneReg | ldI | jpV0 | rnd | drw | skp | sknp | ldVxDT | ldDTVx | ldSTVx | addI | ldF | ldB | ldMemV | ldVMem =>
    obtain rfl := Host.Outcome.next.inj h
    constructor <;> simp [mayWrite]

/-- Settles O53. -/
theorem partsChangeOnlyByTheirWriters : Obligations.PartsChangeOnlyByTheirWriters := by
  intro i s t h
  have f := exec_frame h
  exact ⟨not_imp_comm.1 f.V, not_imp_comm.1 f.I, not_imp_comm.1 f.mem,
    fun hne => by_contra fun hi => hne.elim (· (f.SP hi)) (· (f.stack hi)), not_imp_comm.1 f.DT, not_imp_comm.1 f.ST,
    not_imp_comm.1 f.wait, not_imp_comm.1 f.errlog, not_imp_comm.1 f.fb, not_imp_comm.1 f.draws, f.held, f.fstep,
    f.fontBase, f.keyEvents⟩

/-! ## The general registers (R24) -/

theorem eq_of_reg_setReg_ne {s : State} {x r : Reg} {v : Byte} (h : (s.setReg x v).reg r ≠ s.reg r) : r = x :=
  by_contra fun hr => h ((s.reg_setReg x r v).trans (if_neg hr))

theorem eq_of_reg_setResultThenFlag_ne {s : State} {x r : Reg} {v : Byte} {c : Bool}
    (h : (s.setResultThenFlag x v c).reg r ≠ s.reg r) : r = x ∨ r = 15 := by
  by_contra hr
  obtain ⟨hx, hF⟩ := not_or.1 hr
  exact h ((s.reg_setResultThenFlag x r v c).trans ((if_neg hF).trans (if_neg hx)))

/-- Settles O52: by the shape of each writer's next state; the others leave all registers. -/
theorem registersChangeOnlyByTheirWriters : Obligations.RegistersChangeOnlyByTheirWriters := by
  intro i s t r h hne
  have hkeep (hi : .registers ∉ mayWrite i) : False := hne (State.reg_congr ((exec_frame h).V hi) r)
  cases i with
  | ldByte x _ | addByte x _ | ldReg x _ | or x _ | and x _ | xor x _ | ldVxDT x =>
    obtain rfl := Host.Outcome.next.inj h
    exact beq_iff_eq.2 (eq_of_reg_setReg_ne hne)
  | rnd x kk =>
    obtain rfl := Host.Outcome.next.inj h
    exact beq_iff_eq.2 (eq_of_reg_setReg_ne (s := s.afterDraw) hne)
  | addReg x _ | sub x _ | shr x _ | subn x _ | shl x _ =>
    obtain rfl := Host.Outcome.next.inj h
    simpa [writesReg] using eq_of_reg_setResultThenFlag_ne hne
  | drw x y n =>
    obtain rfl := Host.Outcome.next.inj h
    exact beq_iff_eq.2 (eq_of_reg_setReg_ne (s := (s.displayDraw (s.drawRequest x y n)).2) hne)
  | ldVMem x =>
    obtain rfl := Host.Outcome.next.inj h
    rw [reg_ldVMem] at hne
    exact decide_eq_true (by_contra fun hr => hne (if_neg hr))
  | ldVxK x =>
    obtain ⟨_, -, hexec⟩ | ⟨-, hexec⟩ := exec_ldVxK_cases x s
    · cases h.symm.trans hexec
      exact beq_iff_eq.2 (eq_of_reg_setReg_ne (s := s) hne)
    · cases h.symm.trans hexec
      exact absurd rfl hne
  | cls | ret | jp | call | seByte | sneByte | seReg | sneReg | ldI | jpV0 | skp | sknp | ldDTVx | ldSTVx | addI | ldF | ldB
  | ldMemV => exact (hkeep (by simp [mayWrite])).elim

/-! ## The writers of memory, the stack, the log and the delay timer -/

theorem eq_ldB_or_ldMemV_of_writes {i : Instr} (h : .memory ∈ mayWrite i) : (∃ x, i = .ldB x) ∨ ∃ x, i = .ldMemV x := by
  cases i <;> simp_all [mayWrite]

theorem eq_ret_or_call_of_writes_stack {i : Instr} (h : .stack ∈ mayWrite i) : i = .ret ∨ ∃ nnn, i = .call nnn := by
  cases i <;> simp_all [mayWrite]

theorem eq_ret_or_call_of_writes_errors {i : Instr} (h : .errors ∈ mayWrite i) : i = .ret ∨ ∃ nnn, i = .call nnn := by
  cases i <;> simp_all [mayWrite]

theorem eq_ldDTVx_of_writes {i : Instr} (h : .delayTimer ∈ mayWrite i) : ∃ x, i = .ldDTVx x := by
  cases i <;> simp_all [mayWrite]

/-! ## The invariant (R29, R34; 20_memory.md R50) -/

section
variable {i : Instr} {s t : State} (h : exec i s = .next t)
include h

theorem exec_mem_wf (hwf : s.mem.wf) : t.mem.wf := by
  by_cases hi : .memory ∈ mayWrite i
  · obtain ⟨x, rfl⟩ | ⟨x, rfl⟩ := eq_ldB_or_ldMemV_of_writes hi
    · obtain rfl := Host.Outcome.next.inj h
      exact Memory.writeBytes_wf _ _ hwf
    · obtain rfl := Host.Outcome.next.inj h
      exact Memory.writeBytes_wf _ _ hwf
  · rwa [(exec_frame h).mem hi]

theorem exec_SP_le (hle : s.SP.toNat ≤ 16) : t.SP.toNat ≤ 16 := by
  by_cases hi : .stack ∈ mayWrite i
  · obtain rfl | ⟨nnn, rfl⟩ := eq_ret_or_call_of_writes_stack hi
    · obtain rfl := Host.Outcome.next.inj (h.symm.trans (exec_ret s))
      obtain ⟨h0, hp⟩ | ⟨h0, hp⟩ := s.pop_cases (encode .ret) s.instrAddress
      · rw [hp]
        exact hle
      · rw [hp]
        show (s.SP - 1).toNat ≤ 16
        bv_omega
    · obtain rfl := Host.Outcome.next.inj (h.symm.trans (exec_call nnn s))
      obtain ⟨hfull, hp⟩ | ⟨hroom, hp⟩ := s.push_cases s.pc (encode (.call nnn)) s.instrAddress
      · rw [hp]
        exact hle
      · rw [hp]
        show (s.SP + 1).toNat ≤ 16
        bv_omega
  · rwa [(exec_frame h).SP hi]

end

/-- The frame driver keeps the count below STEPS_PER_FRAME. -/
theorem frameTick_fstep_lt (s : State) : s.frameTick.fstep < stepsPerFrame := by
  obtain ⟨hlt, ht⟩ | ⟨-, ht⟩ := s.frameTick_cases
  · rw [ht]
    exact hlt
  · rw [ht]
    show 0 < stepsPerFrame
    decide

/-- Settles O10: memory and `SP` are kept by the instruction, the frame count by the frame driver; the step of a decode error
moves neither memory nor `SP`. -/
theorem stepKeepsTheInvariant : Obligations.StepKeepsTheInvariant := by
  intro s s' hinv hstep
  obtain ⟨i, t, -, ht, rfl⟩ | ⟨e, -, rfl⟩ := step_cases hstep
  · have hfont : t.fontBase = s.fontBase := (exec_frame ht).fontBase
    have hmem : t.mem.wf := exec_mem_wf ht hinv.mem_wf
    have hSP : t.SP.toNat ≤ 16 := exec_SP_le ht hinv.sp_le
    exact ⟨⟨hmem, hSP, frameTick_fstep_lt _, hfont ▸ hinv.font_fits⟩, hfont⟩
  · exact ⟨⟨hinv.mem_wf, hinv.sp_le, frameTick_fstep_lt _, hinv.font_fits⟩, rfl⟩

/-! ## Reports (R240, R241, R243) -/

/-- The reports of one instruction: none, or one that names its word and its address, of a CALL on a full stack or a RET on an
empty one. -/
theorem exec_errlog {i : Instr} {s t : State} (h : exec i s = .next t) :
    t.errlog = s.errlog ∨ ∃ kind, t.errlog = s.errlog ++ [{ kind := kind, opcode := encode i, address := s.instrAddress }] ∧
      ((kind = .stackOverflow ∧ (∃ nnn, i = .call nnn) ∧ s.SP = 16) ∨ (kind = .stackUnderflow ∧ i = .ret ∧ s.SP = 0)) := by
  by_cases hi : .errors ∈ mayWrite i
  · obtain rfl | ⟨nnn, rfl⟩ := eq_ret_or_call_of_writes_errors hi
    · obtain rfl := Host.Outcome.next.inj (h.symm.trans (exec_ret s))
      obtain ⟨h0, hp⟩ | ⟨-, hp⟩ := s.pop_cases (encode .ret) s.instrAddress
      · rw [hp]
        exact .inr ⟨_, rfl, .inr ⟨rfl, rfl, h0⟩⟩
      · rw [hp]
        exact .inl rfl
    · obtain rfl := Host.Outcome.next.inj (h.symm.trans (exec_call nnn s))
      obtain ⟨hfull, hp⟩ | ⟨-, hp⟩ := s.push_cases s.pc (encode (.call nnn)) s.instrAddress
      · rw [hp]
        exact .inr ⟨_, rfl, .inl ⟨rfl, ⟨nnn, rfl⟩, hfull⟩⟩
      · rw [hp]
        exact .inl rfl
  · exact .inl ((exec_frame h).errlog hi)

theorem nextInstr_of_decode {s : State} {i : Instr} (h : decode s.fetchWord = .ok i) : s.nextInstr = some i := by
  rw [State.nextInstr, h]
  rfl

theorem nextInstr_of_decode_error {s : State} {e : DecodeError} (h : decode s.fetchWord = .error e) : s.nextInstr = none := by
  rw [State.nextInstr, h]
  rfl

/-- Settles O54: the word of the decoded instruction is the fetched one, and its address the `pc` before the advance. -/
theorem stepReportsAtMostOnceAndTruly : Obligations.StepReportsAtMostOnceAndTruly := by
  intro s s' hstep
  obtain ⟨i, t, hi, ht, rfl⟩ | ⟨e, he, rfl⟩ := step_cases hstep
  · obtain hnone | ⟨kind, hlog, hcause⟩ := exec_errlog ht
    · exact .inl hnone
    · rw [encode_of_decode hi, State.instrAddress_advance] at hlog
      refine .inr ⟨kind, hlog, ?_⟩
      rw [nextInstr_of_decode hi]
      obtain ⟨rfl, ⟨nnn, rfl⟩, hSP⟩ | ⟨rfl, rfl, hSP⟩ := hcause
      · exact ⟨nofun, fun _ => ⟨⟨nnn, rfl⟩, hSP⟩, nofun⟩
      · exact ⟨nofun, nofun, fun _ => ⟨rfl, hSP⟩⟩
  · refine .inr ⟨.decodeError, ?_, fun _ => nextInstr_of_decode_error he, nofun, nofun⟩
    rw [State.betweenSteps_errlog, State.decodeErrorReport, State.instrAddress_advance]
    rfl

/-! ## Timers and frames (60_exceptions.md R249, R250) -/

/-- The work between steps on the frame count and the timers. -/
theorem betweenSteps_timers {s : State} (h : s.fstep < 10) :
    (s.fstep = 9 → s.betweenSteps.fstep = 0 ∧ s.betweenSteps.DT.toNat = s.DT.toNat - 1 ∧
      s.betweenSteps.ST.toNat = s.ST.toNat - 1) ∧
    (s.fstep ≠ 9 → s.betweenSteps.fstep = s.fstep + 1 ∧ s.betweenSteps.DT = s.DT ∧ s.betweenSteps.ST = s.ST) := by
  unfold State.betweenSteps
  obtain ⟨hlt, ht⟩ | ⟨hge, ht⟩ := s.hostEvents.frameTick_cases
  · rw [State.hostEvents_fstep, stepsPerFrame] at hlt
    rw [ht]
    exact ⟨fun h9 => by omega, fun _ => ⟨rfl, rfl, rfl⟩⟩
  · rw [State.hostEvents_fstep, stepsPerFrame] at hge
    rw [ht]
    exact ⟨fun _ => ⟨rfl, toNat_countdown s.DT, toNat_countdown s.ST⟩, fun h9 => by omega⟩

/-- Settles O45: no instruction touches the frame count, so the work between steps finds it as the step did. -/
theorem timersCountDownAtFrameEndOnly : Obligations.TimersCountDownAtFrameEndOnly := by
  rintro s dt st hf (⟨i, t, hi, ht, rfl, rfl⟩ | ⟨⟨e, he⟩, rfl, rfl⟩)
  · have hfstep : t.fstep = s.fstep := (exec_frame ht).fstep
    rw [← hfstep] at hf ⊢
    exact ⟨_, step_of_exec hi ht, betweenSteps_timers hf⟩
  · exact ⟨_, step_of_decode_error he, betweenSteps_timers (s := s.advance.decodeErrorReport s.fetchWord) hf⟩

/-- The work between steps as arithmetic: a frame end is a carry of the count. -/
theorem betweenSteps_fstep_DT {s : State} (h : s.fstep < 10) : s.betweenSteps.fstep = (s.fstep + 1) % 10 ∧
    s.betweenSteps.DT.toNat = s.DT.toNat - (s.fstep + 1) / 10 := by
  obtain ⟨hend, hwithin⟩ := betweenSteps_timers h
  by_cases h9 : s.fstep = 9
  · obtain ⟨hf, hDT, -⟩ := hend h9
    rw [hf, hDT]
    omega
  · obtain ⟨hf, hDT, -⟩ := hwithin h9
    rw [hf, hDT]
    omega

/-- A step that executes no LD DT, Vx counts in its frame, and lets the delay timer fall at the frame's end. -/
theorem step_fstep_DT {s s' : State} (hf : s.fstep < 10) (hclean : ∀ i, s.nextInstr = some i → ¬ ∃ x, i = .ldDTVx x)
    (hstep : step s = .next s') :
    s'.fstep = (s.fstep + 1) % 10 ∧ s'.DT.toNat = s.DT.toNat - (s.fstep + 1) / 10 := by
  obtain ⟨i, t, hi, ht, rfl⟩ | ⟨e, -, rfl⟩ := step_cases hstep
  · have hfstep : t.fstep = s.fstep := (exec_frame ht).fstep
    have hDT : t.DT = s.DT := (exec_frame ht).DT fun hw => hclean i (nextInstr_of_decode hi) (eq_ldDTVx_of_writes hw)
    rw [← hfstep, ← hDT]
    exact betweenSteps_fstep_DT (hfstep ▸ hf)
  · exact betweenSteps_fstep_DT (s := s.advance.decodeErrorReport s.fetchWord) hf

/-- Settles O46, by induction on the steps: the first step's frame end and those of the rest add up. -/
theorem delayTimerFallsOncePerFrame : Obligations.DelayTimerFallsOncePerFrame := by
  intro n s t hf hsteps
  induction hsteps with
  | done s => omega
  | more hclean hfirst _ ih =>
    obtain ⟨hfstep, hDT⟩ := step_fstep_DT hf hclean hfirst
    obtain ⟨ihDT, ihf⟩ := ih (by omega)
    rw [ihDT, ihf, hDT, hfstep]
    omega

end Sys2Proof
end

section
/-! PROOF. The statements on what no step observes (10_state.md R28, R30, R33). A relation between states that fixes the fetched
word, and that the instructions and the work between steps carry over, is carried over by every step (`StepSimulation`); the two
statements are that for two relations. Only CALL and RET look at the stack, and only they append to the log. -/

namespace Sys2Proof

open Machine

/-! ## Relations that every step carries over -/

/-- `R` is carried over by the parts of a step. -/
structure StepSimulation (R : State → State → Prop) : Prop where
  fetch : ∀ {s t : State}, R s t → t.fetchWord = s.fetchWord
  exec : ∀ {s t s' : State} (i : Instr), R s t → exec i s.advance = .next s' → ∃ t', exec i t.advance = .next t' ∧ R s' t'
  decodeError : ∀ {s t : State} (w : Word), R s t → R (s.advance.decodeErrorReport w) (t.advance.decodeErrorReport w)
  between : ∀ {s t : State}, R s t → R s.betweenSteps t.betweenSteps

/-- It is carried over by the step. -/
theorem StepSimulation.step {R : State → State → Prop} (h : StepSimulation R) {s t s' : State} (hR : R s t)
    (hstep : step s = .next s') : ∃ t', Machine.step t = .next t' ∧ R s' t' := by
  have hfetch := h.fetch hR
  obtain ⟨i, u, hi, hu, rfl⟩ | ⟨e, he, rfl⟩ := step_cases hstep
  · obtain ⟨u', hu', hR'⟩ := h.exec i hR hu
    exact ⟨_, step_of_exec (hfetch ▸ hi) hu', h.between hR'⟩
  · refine ⟨_, step_of_decode_error (hfetch ▸ he), ?_⟩
    rw [hfetch]
    exact h.between (h.decodeError _ hR)

/-! ## The error log and the sound timer (R28, R33) -/

theorem sameButOutputs_iff {s t : State} :
    SameButOutputs s t ↔ ∃ (log : List Report) (st : Byte), t = { s with errlog := log, ST := st } := by
  constructor
  · exact fun h => ⟨_, _, h⟩
  · rintro ⟨log, st, rfl⟩
    rfl

section
variable (s : State) (log : List Report) (st : Byte)

/-- Push reads neither; its report is appended to either log. -/
theorem sameButOutputs_push (v w a : Word) :
    SameButOutputs (s.push v w a) (State.push { s with errlog := log, ST := st } v w a) := by
  unfold State.push
  split <;> rfl

/-- Pop reads neither, so it takes the same value. -/
theorem pop_of_outputs (w a : Word) : (State.pop { s with errlog := log, ST := st } w a).1 = (s.pop w a).1 ∧
    SameButOutputs (s.pop w a).2 (State.pop { s with errlog := log, ST := st } w a).2 := by
  unfold State.pop
  split <;> exact ⟨rfl, rfl⟩

/-- No instruction reads the error log or the sound timer. -/
theorem exec_of_outputs (i : Instr) {s' : State} (h : exec i s = .next s') :
    ∃ t', exec i { s with errlog := log, ST := st } = .next t' ∧ SameButOutputs s' t' := by
  cases i with
  | call nnn =>
    obtain rfl := Host.Outcome.next.inj (h.symm.trans (exec_call nnn s))
    obtain ⟨log', st', hpush⟩ := sameButOutputs_iff.1 (sameButOutputs_push s log st s.pc (encode (.call nnn)) s.instrAddress)
    exact ⟨_, exec_call nnn _, sameButOutputs_iff.2 ⟨log', st', congrArg (State.jump · _) hpush⟩⟩
  | ret =>
    obtain rfl := Host.Outcome.next.inj (h.symm.trans (exec_ret s))
    obtain ⟨hvalue, hpop⟩ := pop_of_outputs s log st (encode .ret) s.instrAddress
    obtain ⟨log', st', hpop⟩ := sameButOutputs_iff.1 hpop
    exact ⟨_, exec_ret _, sameButOutputs_iff.2 ⟨log', st', congrArg₂ State.jump hpop hvalue⟩⟩
  | ldVxK x =>
    obtain ⟨k, hk, hexec⟩ | ⟨hw, hexec⟩ := exec_ldVxK_cases x s
    · cases h.symm.trans hexec
      exact ⟨_, exec_ldVxK_of_keyCaptured x (s := { s with errlog := log, ST := st }) hk, rfl⟩
    · cases h.symm.trans hexec
      exact ⟨_, exec_ldVxK_of_not_captured (s := { s with errlog := log, ST := st }) hw, rfl⟩
  | cls | jp | seByte | sneByte | seReg | ldByte | addByte | ldReg | or | and | xor | addReg | sub | shr | subn | shl | sneReg
  | ldI | jpV0 | rnd | drw | skp | sknp | ldVxDT | ldDTVx | ldSTVx | addI | ldF | ldB | ldMemV | ldVMem =>
    obtain rfl := Host.Outcome.next.inj h
    exact ⟨_, rfl, rfl⟩

end

theorem stepSimulation_sameButOutputs : StepSimulation SameButOutputs where
  fetch h := by
    obtain ⟨log, st, rfl⟩ := sameButOutputs_iff.1 h
    rfl
  exec i h hs := by
    obtain ⟨log, st, rfl⟩ := sameButOutputs_iff.1 h
    exact exec_of_outputs _ log st i hs
  decodeError w h := by
    obtain ⟨log, st, rfl⟩ := sameButOutputs_iff.1 h
    rfl
  between h := by
    obtain ⟨log, st, rfl⟩ := sameButOutputs_iff.1 h
    rfl

/-- Settles O55. -/
theorem errorLogAndSoundTimerAreNeverRead : Obligations.ErrorLogAndSoundTimerAreNeverRead :=
  fun _ _ _ => stepSimulation_sameButOutputs.step

/-! ## Stale stack entries (R30) -/

/-- The two stacks agree on the entries below `sp`. -/
def AgreeBelow (sp : Byte) (st st' : Vector Word 16) : Prop := ∀ (k : Nat) (_ : k < 16), k < sp.toNat → st'[k] = st[k]

theorem sameButStale_iff {s t : State} :
    SameButStale s t ↔ ∃ st : Vector Word 16, t = { s with stack := st } ∧ AgreeBelow s.SP s.stack st := by
  constructor
  · exact fun h => ⟨_, h⟩
  · rintro ⟨st, rfl, hst⟩
    exact ⟨rfl, hst⟩

section
variable {s : State} {st : Vector Word 16} (hst : AgreeBelow s.SP s.stack st)
include hst

/-- Push writes the same entry on both stacks, so they agree on one more. -/
theorem sameButStale_push (hle : s.SP.toNat ≤ 16) (v w a : Word) :
    SameButStale (s.push v w a) (State.push { s with stack := st } v w a) := by
  by_cases hfull : s.SP = 16
  · rw [State.push_of_full hfull, State.push_of_full (s := { s with stack := st }) hfull]
    exact ⟨rfl, hst⟩
  · have hroom : s.SP.toNat < 16 := Nat.lt_of_le_of_ne hle fun h => hfull (BitVec.eq_of_toNat_eq h)
    rw [State.push_of_room hroom, State.push_of_room (s := { s with stack := st }) hroom]
    refine ⟨rfl, fun k hk hlt => ?_⟩
    have hlt' : k < s.SP.toNat + 1 := toNat_add_one_of_lt hroom ▸ hlt
    simp only [getElem_set_stackIndex, Nat.mod_eq_of_lt hroom]
    by_cases htop : k = s.SP.toNat
    · rw [if_pos htop, if_pos htop]
    · rw [if_neg htop, if_neg htop]
      exact hst k hk (by omega)

/-- Pop takes an entry the stacks agree on. -/
theorem pop_of_agreeBelow (hle : s.SP.toNat ≤ 16) (w a : Word) :
    (State.pop { s with stack := st } w a).1 = (s.pop w a).1 ∧
      SameButStale (s.pop w a).2 (State.pop { s with stack := st } w a).2 := by
  by_cases h0 : s.SP = 0
  · rw [State.pop_of_empty h0, State.pop_of_empty (s := { s with stack := st }) h0]
    exact ⟨rfl, rfl, hst⟩
  · obtain ⟨k, hk⟩ : ∃ k, s.SP.toNat = k + 1 :=
      Nat.exists_eq_succ_of_ne_zero fun h => h0 (BitVec.eq_of_toNat_eq h)
    have hlt : k < 16 := by omega
    rw [State.pop_of_SP_eq_succ hlt hk, State.pop_of_SP_eq_succ (s := { s with stack := st }) hlt hk]
    refine ⟨hst k hlt (by omega), rfl, fun j hj hjlt => hst j hj ?_⟩
    have hj' : j < k := toNat_sub_one_of_eq_succ hk ▸ hjlt
    omega

/-- No instruction reads a stale entry: CALL and RET by the two lemmas above, and no other instruction reads or writes the
stack. -/
theorem exec_of_agreeBelow (hle : s.SP.toNat ≤ 16) (i : Instr) {s' : State} (h : exec i s = .next s') :
    ∃ t', exec i { s with stack := st } = .next t' ∧ SameButStale s' t' := by
  cases i with
  | call nnn =>
    obtain rfl := Host.Outcome.next.inj (h.symm.trans (exec_call nnn s))
    obtain ⟨st', hpush, hst'⟩ := sameButStale_iff.1 (sameButStale_push hst hle s.pc (encode (.call nnn)) s.instrAddress)
    exact ⟨_, exec_call nnn _, sameButStale_iff.2 ⟨st', congrArg (State.jump · _) hpush, hst'⟩⟩
  | ret =>
    obtain rfl := Host.Outcome.next.inj (h.symm.trans (exec_ret s))
    obtain ⟨hvalue, hpop⟩ := pop_of_agreeBelow hst hle (encode .ret) s.instrAddress
    obtain ⟨st', hpop, hst'⟩ := sameButStale_iff.1 hpop
    exact ⟨_, exec_ret _, sameButStale_iff.2 ⟨st', congrArg₂ State.jump hpop hvalue, hst'⟩⟩
  | ldVxK x =>
    obtain ⟨k, hk, hexec⟩ | ⟨hw, hexec⟩ := exec_ldVxK_cases x s
    · cases h.symm.trans hexec
      exact ⟨_, exec_ldVxK_of_keyCaptured x (s := { s with stack := st }) hk, rfl, hst⟩
    · cases h.symm.trans hexec
      exact ⟨_, exec_ldVxK_of_not_captured (s := { s with stack := st }) hw, rfl, hst⟩
  | cls | jp | seByte | sneByte | seReg | ldByte | addByte | ldReg | or | and | xor | addReg | sub | shr | subn | shl | sneReg
  | ldI | jpV0 | rnd | drw | skp | sknp | ldVxDT | ldDTVx | ldSTVx | addI | ldF | ldB | ldMemV | ldVMem =>
    obtain rfl := Host.Outcome.next.inj h
    exact ⟨_, rfl, rfl, hst⟩

end

theorem stepSimulation_sameButStale : StepSimulation fun s t => s.SP.toNat ≤ 16 ∧ SameButStale s t where
  fetch h := by
    obtain ⟨st, rfl, -⟩ := sameButStale_iff.1 h.2
    rfl
  exec i h hs := by
    obtain ⟨hle, h⟩ := h
    obtain ⟨st, rfl, hst⟩ := sameButStale_iff.1 h
    obtain ⟨t', ht', hR⟩ := exec_of_agreeBelow (s := State.advance _) hst hle i hs
    exact ⟨t', ht', exec_SP_le hs hle, hR⟩
  decodeError w h := by
    obtain ⟨st, rfl, hst⟩ := sameButStale_iff.1 h.2
    exact ⟨h.1, rfl, hst⟩
  between h := by
    obtain ⟨st, rfl, hst⟩ := sameButStale_iff.1 h.2
    exact ⟨h.1, rfl, hst⟩

/-- Settles O56: the relation carries the bound on `SP` along, which every instruction keeps. -/
theorem staleStackEntriesAreNeverObserved : Obligations.StaleStackEntriesAreNeverObserved := by
  intro s t s' hle hR hstep
  obtain ⟨t', ht', -, hR'⟩ := stepSimulation_sameButStale.step ⟨hle, hR⟩ hstep
  exact ⟨t', ht', hR'⟩

end Sys2Proof
end
